-- ==== Sys2Proof/Word.lean ====
section
/-! DEFINITION. The value types every layer shares: the command word, the 32-bit register word, pin
identifiers, pin positions, pin levels, and a group of four values, one for each pin.
Widths: spec 00_scope R4 (W = DW = 32, PW = 8, NPIN = 4) and 30_encoding R60 (72-bit command word). -/

namespace Sys2Proof

/-- The command word `CW`: exactly 72 bits, bit 0 least significant (R5, R60). -/
abbrev CommandWord := BitVec 72

/-- A 32-bit register: step index, limit, duration, timer (R4: `W = DW = 32`). -/
abbrev Word := BitVec 32

/-- A pin identifier, a label of `PW = 8` bits (R4, R11). -/
abbrev PinId := BitVec 8

/-- A pin position `k` in `0..3`: 0 is A, 1 is B, 2 is C, 3 is D (R11). -/
abbrev PinPos := Fin 4

/-- A phase index in `0..7` (R9). -/
abbrev Phase := Fin 8

/-- A pin level; `LOW` is encoded 0 and `HIGH` 1 (R42). -/
inductive Level where
  | low
  | high
  deriving DecidableEq, Repr

/-- Four values, one for each pin position, named as the spec names the pins (A, B, C, D). -/
structure Quad (α : Type) where
  a : α
  b : α
  c : α
  d : α
  deriving DecidableEq, Repr

/-- `fits_s32(x)`: `x` is in the range of a signed 32-bit integer (R6). -/
def fitsS32 (x : Int) : Bool :=
  decide (-2 ^ 31 ≤ x) && decide (x ≤ 2 ^ 31 - 1)

end Sys2Proof
end

