-- ==== Sys2Proof/Syntax.lean ====
section
/-! DEFINITION. The commands: one constructor for each row of spec/opcode_table.json, with the operands
as 30_encoding R68's decoder hands them on. -/

namespace Sys2Proof

/-- The Stepping Method: "one of {WAVE_DRIVE, FULL_STEP, HALF_STEP}" (R12). The fourth code is never
stored and names no method (R66), so it has no constructor. -/
inductive Method where
  | waveDrive
  | fullStep
  | halfStep
  deriving DecidableEq, Repr

/-- The eight commands (R62). Signed operands are the integers their 32-bit fields read as (R64);
durations and pin identifiers keep the form of the registers they are written to (R11, R13). -/
inductive Instr where
  /-- `INIT a, b, c, d, dur, method`: construct the driver (R115). -/
  | init (pins : Quad PinId) (dur : Word) (method : Method)
  /-- `STEP count`: the step primitive (R80). -/
  | step (count : Int)
  /-- `QROT n`: rotate by `n` quarter turns (R101). -/
  | qrot (n : Int)
  /-- `HROT n`: rotate by `n` half turns (R102). -/
  | hrot (n : Int)
  /-- `FROT n`: rotate by `n` full turns (R103). -/
  | frot (n : Int)
  /-- `AROT angle`: rotate by `angle / 65536` degrees (R106); the operand is the raw integer `A`. -/
  | arot (angle : Int)
  /-- `SETDUR d`: set the step duration (R120). -/
  | setdur (d : Word)
  /-- `SETMETH method`: set the stepping method (R122). -/
  | setmeth (method : Method)
  deriving DecidableEq, Repr

end Sys2Proof
end

