-- ==== Sys2Proof/WellFormed.lean ====
section
/-! DEFINITION. Which terms of `Instr` are commands of this hardware: a signed operand is one that
its 32-bit field can hold (spec 30_encoding R64, R70). Every other operand's range is its type. -/

namespace Sys2Proof

/-- The instruction's operands are in the ranges of R64. Pin identifiers need not be distinct here:
a word with equal identifiers is legal and fails later with ConfigurationError (R115, R117). -/
def Instr.wellFormed : Instr → Bool
  | .init _ _ _  => true
  | .step count  => fitsS32 count
  | .qrot n      => fitsS32 n
  | .hrot n      => fitsS32 n
  | .frot n      => fitsS32 n
  | .arot angle  => fitsS32 angle
  | .setdur _    => true
  | .setmeth _   => true

end Sys2Proof
end

