-- ==== Sys2Proof/Decode.lean ====
section
/-! DEFINITION. The command word: its fields, the decoder, total on 72-bit words and rejecting by name
(spec 30_encoding R60 to R68), and after it the encoder, from the same tables. -/

namespace Sys2Proof

/-- Why a word is illegal (R67). All four complete with the one error IllegalCommand (R131); the names
only say which clause of R67 the word breaks first. -/
inductive IllegalWord where
  /-- `op` is `0x0` or in `0x9 .. 0xF`. -/
  | reservedOpcode
  /-- `rsv != 0`. -/
  | reservedField
  /-- `op` is INIT or SETMETH and `meth = 3`. -/
  | noSuchMethod
  /-- A field that the format does not use is not zero (R65). -/
  | unusedField
  deriving DecidableEq, Repr

/-- `op = CW[71:68]` (R60). -/
def opField (w : CommandWord) : BitVec 4 := w.extractLsb' 68 4

/-- `meth = CW[67:66]` (R60). -/
def methField (w : CommandWord) : BitVec 2 := w.extractLsb' 66 2

/-- `rsv = CW[65:64]` (R60). -/
def rsvField (w : CommandWord) : BitVec 2 := w.extractLsb' 64 2

/-- `hi = CW[63:32]` (R60). -/
def hiField (w : CommandWord) : Word := w.extractLsb' 32 32

/-- `lo = CW[31:0]` (R60). -/
def loField (w : CommandWord) : Word := w.extractLsb' 0 32

/-- The method a 2-bit code names: 0, 1, 2 in the order the document lists them; 3 names none (R66). -/
def methodOfCode (c : BitVec 2) : Option Method :=
  if c = 0 then some .waveDrive
  else if c = 1 then some .fullStep
  else if c = 2 then some .halfStep
  else none

/-- The code of a method (R12, R66). -/
def methodCode : Method → BitVec 2
  | .waveDrive => 0
  | .fullStep  => 1
  | .halfStep  => 2

/-- The four pin identifiers packed in `lo`, pin A lowest (R63). -/
def pinsOfWord (lo : Word) : Quad PinId :=
  { a := lo.extractLsb' 0 8, b := lo.extractLsb' 8 8, c := lo.extractLsb' 16 8, d := lo.extractLsb' 24 8 }

/-- `lo` for four pin identifiers (R63). -/
def wordOfPins (pins : Quad PinId) : Word := pins.d ++ pins.c ++ pins.b ++ pins.a

/-- Format A (R61, R65): `meth` and `hi` must be zero; the operand is `lo`. -/
def decodeArgument (w : CommandWord) (mk : Word → Instr) : Except IllegalWord Instr :=
  if methField w ≠ 0 ∨ hiField w ≠ 0 then .error .unusedField else .ok (mk (loField w))

/-- Format I (R61, R63): a method that exists, the initial duration and the pins. -/
def decodeInit (w : CommandWord) : Except IllegalWord Instr :=
  match methodOfCode (methField w) with
  | none   => .error .noSuchMethod
  | some m => .ok (.init (pinsOfWord (loField w)) (hiField w) m)

/-- Format M (R61, R65): a method that exists; `hi` and `lo` must be zero. -/
def decodeSetmeth (w : CommandWord) : Except IllegalWord Instr :=
  match methodOfCode (methField w) with
  | none   => .error .noSuchMethod
  | some m => if hiField w ≠ 0 ∨ loField w ≠ 0 then .error .unusedField else .ok (.setmeth m)

/-- The decoder, in the order of R68. It reads no state. -/
def decode (w : CommandWord) : Except IllegalWord Instr :=
  if rsvField w ≠ 0 then .error .reservedField
  else if opField w = 1 then decodeInit w
  else if opField w = 2 then decodeArgument w fun lo => .step lo.toInt
  else if opField w = 3 then decodeArgument w fun lo => .qrot lo.toInt
  else if opField w = 4 then decodeArgument w fun lo => .hrot lo.toInt
  else if opField w = 5 then decodeArgument w fun lo => .frot lo.toInt
  else if opField w = 6 then decodeArgument w fun lo => .arot lo.toInt
  else if opField w = 7 then decodeArgument w fun lo => .setdur lo
  else if opField w = 8 then decodeSetmeth w
  else .error .reservedOpcode

/-- A word from its five fields (R60). -/
def packWord (op : BitVec 4) (meth rsv : BitVec 2) (hi lo : Word) : CommandWord :=
  op ++ meth ++ rsv ++ hi ++ lo

/-- The opcode of each command (R62). -/
def opcode : Instr → BitVec 4
  | .init _ _ _ => 1
  | .step _     => 2
  | .qrot _     => 3
  | .hrot _     => 4
  | .frot _     => 5
  | .arot _     => 6
  | .setdur _   => 7
  | .setmeth _  => 8

/-- The command word of an instruction (R61 to R64). A signed operand is its two's complement (R5). -/
def encode : Instr → CommandWord
  | .init pins dur m => packWord 1 (methodCode m) 0 dur (wordOfPins pins)
  | .step count      => packWord 2 0 0 0 (BitVec.ofInt 32 count)
  | .qrot n          => packWord 3 0 0 0 (BitVec.ofInt 32 n)
  | .hrot n          => packWord 4 0 0 0 (BitVec.ofInt 32 n)
  | .frot n          => packWord 5 0 0 0 (BitVec.ofInt 32 n)
  | .arot angle      => packWord 6 0 0 0 (BitVec.ofInt 32 angle)
  | .setdur d        => packWord 7 0 0 0 d
  | .setmeth m       => packWord 8 (methodCode m) 0 0 0

/-- The 72-bit command word whose low `nbits` bits are those of `w`, the bits above being zero. The word
is presented whole (R49), so the table's numbering of the bits is the word's own. -/
def tableWord (nbits w : Nat) : CommandWord := BitVec.ofNat 72 (w % 2 ^ nbits)

/-- The instruction the decoder reads from a word numbered as spec/opcode_table.json numbers it. -/
def decodeTableWord (nbits w : Nat) : Option Instr := (decode (tableWord nbits w)).toOption

end Sys2Proof
end

