-- ==== Sys2Proof/Config.lean ====
section
/-! DEFINITION. What is a parameter of the step relation and not machine state (spec 10_state R24):
the contents of the sequence ROM, the predicate `PIN_VALID`, `QUARTER_STEPS`, and the values the outside
world drives on the block's input ports; and the free values of the ports the spec leaves open. No rule of the block writes any of them.
The parameters' default values stand in Machine/Defaults.lean. -/

namespace Sys2Proof

/-- One sequence table: exactly 8 phases, each a tuple of four levels (R43 constraint 1). -/
structure PhaseTable where
  p0 : Quad Level
  p1 : Quad Level
  p2 : Quad Level
  p3 : Quad Level
  p4 : Quad Level
  p5 : Quad Level
  p6 : Quad Level
  p7 : Quad Level
  deriving DecidableEq, Repr

/-- The contents of the `sequence_table_rom`: three named tables, kept distinct although the first
two have equal contents (R43; 90_conflicts C4). -/
structure SeqRom where
  waveDrive : PhaseTable
  fullStep  : PhaseTable
  halfStep  : PhaseTable
  deriving DecidableEq, Repr

/-- The parameters of the block that its rules depend on (R4, R24; 92_eei_decisions, "Open parameters in one
list"; 93 U7).
`PIN_VALID` is held as the list of the identifiers the platform does NOT accept, so that any
predicate on the 256 identifiers is plain data and "every identifier valid" is the empty list. -/
structure Config where
  seqRom       : SeqRom
  rejectedPins : List PinId
  /-- `QUARTER_STEPS`: elementary steps per quarter turn for WAVE_DRIVE and FULL_STEP (R4, R100). -/
  fullResolutionQuarter : Nat
  deriving DecidableEq, Repr

/-- The values on the block's input ports (R10, direction "in", without `clk`) at one transition. -/
structure Inputs where
  /-- `rst_n`, active low: `false` holds the block in reset (R160). -/
  rstN     : Bool
  /-- `cmd_valid`: the host presents a command word (R29). -/
  cmdValid : Bool
  /-- `cmd_word`: the word presented (R60). -/
  cmdWord  : CommandWord
  /-- `tick`: one time unit elapses (R89). -/
  tick     : Bool
  /-- `io_err`: the platform's answer to the operation issued in this transition; `true` is `fail`
  (R136). -/
  ioErr    : Bool
  deriving DecidableEq, Repr, Inhabited

/-- FREE VALUE. What the outside world drives on the input ports at the `n`-th transition, where the
state's script of inputs says nothing of it. The spec leaves the host's next command, the arrival of
ticks, every platform answer and reset unconstrained (R24, R179; 93 U5, U14), so nothing can be
proved of this constant (notes/assumptions/2.md). -/
opaque Config.freeInputs : Nat → Inputs

/-- FREE VALUE. The code on `io_kind` in the `n`-th cycle when no operation is issued in it: the spec states
none, but that it is never 3 (R10; notes/assumptions/8.md). -/
opaque Config.idleIoKind : Nat → Fin 3

/-- FREE VALUE. The identifier on `io_pin` in the `n`-th cycle when no operation is issued in it: the spec
states none (R10; notes/assumptions/8.md). -/
opaque Config.idleIoPin : Nat → PinId

end Sys2Proof
end

