-- ==== Sys2Proof/Machine/Defaults.lean ====
section
/-! DEFINITION. The values the open parameters take by default (spec 00_scope R4, third column): the
ROM table of 20_memory R44, a `PIN_VALID` that accepts every identifier, and 512
steps per quarter turn. -/

namespace Sys2Proof.Machine

/-- The WAVE_DRIVE column of R44: one coil at a time, walking from pin D to pin A, twice. -/
def waveDriveTable : PhaseTable :=
  { p0 := ⟨.low, .low, .low, .high⟩
    p1 := ⟨.low, .low, .high, .low⟩
    p2 := ⟨.low, .high, .low, .low⟩
    p3 := ⟨.high, .low, .low, .low⟩
    p4 := ⟨.low, .low, .low, .high⟩
    p5 := ⟨.low, .low, .high, .low⟩
    p6 := ⟨.low, .high, .low, .low⟩
    p7 := ⟨.high, .low, .low, .low⟩ }

/-- The FULL_STEP column of R44. Its contents equal WAVE_DRIVE's; the two stay distinct named constants
(90_conflicts C4). -/
def fullStepTable : PhaseTable :=
  { p0 := ⟨.low, .low, .low, .high⟩
    p1 := ⟨.low, .low, .high, .low⟩
    p2 := ⟨.low, .high, .low, .low⟩
    p3 := ⟨.high, .low, .low, .low⟩
    p4 := ⟨.low, .low, .low, .high⟩
    p5 := ⟨.low, .low, .high, .low⟩
    p6 := ⟨.low, .high, .low, .low⟩
    p7 := ⟨.high, .low, .low, .low⟩ }

/-- The HALF_STEP column of R44. -/
def halfStepTable : PhaseTable :=
  { p0 := ⟨.low, .low, .low, .high⟩
    p1 := ⟨.low, .low, .high, .high⟩
    p2 := ⟨.low, .low, .high, .low⟩
    p3 := ⟨.low, .high, .high, .low⟩
    p4 := ⟨.low, .high, .low, .low⟩
    p5 := ⟨.high, .high, .low, .low⟩
    p6 := ⟨.high, .low, .low, .low⟩
    p7 := ⟨.high, .low, .low, .high⟩ }

/-- The default contents of the sequence ROM (R44). The 21 tuples of phases 1 to 7 are the spec's own
default, not the document's (93 G1; notes/assumptions/4.md). -/
def defaultRom : SeqRom :=
  { waveDrive := waveDriveTable, fullStep := fullStepTable, halfStep := halfStepTable }

/-- The default parameters: R44's table, every pin identifier valid (92 D10), and 512 steps per quarter turn,
the value for this hardware (R4; notes/assumptions/15.md). -/
def defaultConfig : Config :=
  { seqRom := defaultRom, rejectedPins := [], fullResolutionQuarter := 512 }

end Sys2Proof.Machine
end

