-- ==== Sys2Proof/Machine/State.lean ====
section
/-! DEFINITION. The machine's state as plain data, the reasons a step can stop, and the state right after
reset. Every register of spec 10_state (R11 to R20, R26) is a field; the parameters of R24 and the
outside world's inputs stand beside them as data no rule writes. -/

namespace Sys2Proof.Machine

/-- `ST`, the sequencer's state register, one of seven values (R20). -/
inductive SeqState where
  /-- `S_UNCONF`: not constructed. -/
  | unconf
  /-- `S_CFG`: INIT is issuing `configure_output` for pin `SUB`. -/
  | cfg
  /-- `S_IDLE`: constructed, idle between calls. -/
  | idle
  /-- `S_PAT`: writing the pattern level of pin `SUB`. -/
  | pat
  /-- `S_HOLD_START`: issuing the hold. -/
  | holdStart
  /-- `S_HOLD_WAIT`: the delay timer is running. -/
  | holdWait
  /-- `S_OFF`: writing LOW to pin `SUB`. -/
  | off
  deriving DecidableEq, Repr

/-- `DIR`: 0, the count was positive and the index descends; 1, it was negative and the index ascends
(R15). -/
inductive Dir where
  | descending
  | ascending
  deriving DecidableEq, Repr

/-- The five errors, codes 1 to 5 (R130). -/
inductive Error where
  | illegalCommand
  | notPermitted
  | configurationError
  | rangeError
  | ioFailure
  deriving DecidableEq, Repr

/-- How a command ends: OK or one of the errors (R130). Codes 6 and 7 are never produced (93 U20). -/
inductive Completion where
  | ok
  | error (e : Error)
  deriving DecidableEq, Repr

/-- `ERR[5:1]`: one sticky flag for each error code (R19). -/
structure ErrFlags where
  illegalCommand     : Bool
  notPermitted       : Bool
  configurationError : Bool
  rangeError         : Bool
  ioFailure          : Bool
  deriving DecidableEq, Repr

/-- The platform's answer to an operation (R8, R136). -/
inductive Answer where
  | ok
  | fail
  deriving DecidableEq, Repr

/-- An event of the block's trace, with the platform's answer (R8). -/
inductive Event where
  /-- `CFG(pin_id)`: a `configure_output`. -/
  | cfg (pin : PinId) (answer : Answer)
  /-- `WR(pin_id, level)`: a `write_level`. -/
  | wr (pin : PinId) (level : Level) (answer : Answer)
  /-- `HOLD(d)`: a `hold`. -/
  | hold (duration : Word) (answer : Answer)
  deriving DecidableEq, Repr

/-- Why the machine stops with a fault: never. Every rule of the spec gives the block a next state: an
error is a completion code (R130, R140) and a hold without ticks waits (R168). So the type is empty,
and no step can fault; that is safe, for nothing is ruled out by it. -/
inductive Fault where
  deriving DecidableEq, Repr

/-- Why a step is refused. -/
inductive Refusal where
  /-- Raised by an arm of `exec` whose instruction has no meaning yet; no arm of this model does. Safe: it
  stops where the hardware goes on. -/
  | notModelled (mnemonic : String)
  deriving DecidableEq, Repr

/-- The state of the block. -/
structure State where
  /-- The parameters `SEQ_ROM`, `PIN_VALID` and `QUARTER_STEPS` (R24): carried here so that a statement holds for every
  value of them; no transition writes them. -/
  config    : Config
  /-- `ST` (R20). -/
  st        : SeqState
  /-- `PINID[0..3]`, the Pin Assignment (R11). -/
  pinId     : Quad PinId
  /-- `METHOD`, the Stepping Method (R12). -/
  method    : Method
  /-- `DUR`, the Step Duration (R13). -/
  dur       : Word
  /-- `DIR` of the `step_counter` (R15). -/
  dir       : Dir
  /-- `IDX`, the current step index, unsigned (R15). -/
  idx       : Word
  /-- `LIMIT`, `abs(count)`, unsigned (R15). -/
  limit     : Word
  /-- `SUB`, the pin position the current state operates on (R16). -/
  sub       : PinPos
  /-- `TMR`, the time units still to elapse in the current hold (R17). -/
  tmr       : Word
  /-- `PINLVL[0..3]`, the level last successfully written to each pin, driven on `pin_out` (R18). -/
  pinLvl    : Quad Level
  /-- `PINOE[0..3]`: `configure_output` has succeeded for the pin, driven on `pin_oe` (R18). -/
  pinOe     : Quad Bool
  /-- `ERR[5:1]` (R19). -/
  err       : ErrFlags
  /-- `rsp_valid`: a response is given in this cycle (R141). -/
  rspValid  : Bool
  /-- `rsp_code`, meaningful while `rspValid` (R141). -/
  rspCode   : Completion
  /-- The event trace, oldest first (R8). -/
  trace     : List Event
  /-- The responses given so far, oldest first (R141; 92 D28: a claim observes the trace and the
  responses). -/
  responses : List Completion
  /-- The model's own: the inputs of this and the next transitions, as far as they are known. Past its
  end the inputs are the free value `Config.freeInputs` (notes/assumptions/2.md). -/
  script    : List Inputs
  /-- The model's own: how many transitions have been made, which numbers the free inputs. -/
  cycle     : Nat
  deriving DecidableEq, Repr

/-- The machine right after reset: the values of R26 and R160; where R26 says "unspecified" (`PINID`,
`METHOD`, `DUR`, `DIR`, `IDX`, `LIMIT`, `SUB`, `TMR`) the zero the model names
(notes/assumptions/3.md). -/
def State.reset : State :=
  { config    := defaultConfig
    st        := .unconf
    pinId     := ⟨0, 0, 0, 0⟩
    method    := .waveDrive
    dur       := 0
    dir       := .descending
    idx       := 0
    limit     := 0
    sub       := 0
    tmr       := 0
    pinLvl    := ⟨.low, .low, .low, .low⟩
    pinOe     := ⟨false, false, false, false⟩
    err       := ⟨false, false, false, false, false⟩
    rspValid  := false
    rspCode   := .ok
    trace     := []
    responses := []
    script    := []
    cycle     := 0 }

end Sys2Proof.Machine
end

