-- ==== Sys2Proof/Machine/Flags.lean ====
section
/-! DEFINITION. The sticky error flags and the codes of completions (spec 10_state R19, 60_exceptions
R130). The block has no arithmetic condition codes (R19). -/

namespace Sys2Proof.Machine

/-- The flag of an error (R19: bit `c` for code `c`). -/
def errGet (f : ErrFlags) : Error → Bool
  | .illegalCommand     => f.illegalCommand
  | .notPermitted       => f.notPermitted
  | .configurationError => f.configurationError
  | .rangeError         => f.rangeError
  | .ioFailure          => f.ioFailure

/-- `ERR[c] <- 1` (R140); the other flags stay. -/
def errSet (f : ErrFlags) : Error → ErrFlags
  | .illegalCommand     => { f with illegalCommand := true }
  | .notPermitted       => { f with notPermitted := true }
  | .configurationError => { f with configurationError := true }
  | .rangeError         => { f with rangeError := true }
  | .ioFailure          => { f with ioFailure := true }

/-- No flag is set: `ERR = 0b00000` (R178). -/
def errClear (f : ErrFlags) : Bool :=
  !f.illegalCommand && !f.notPermitted && !f.configurationError && !f.rangeError && !f.ioFailure

/-- `err_sticky`, the five bits `ERR[5:1]`, bit 5 first (R10, R19). -/
def errBits (f : ErrFlags) : BitVec 5 :=
  BitVec.ofBool f.ioFailure ++ BitVec.ofBool f.rangeError ++ BitVec.ofBool f.configurationError
    ++ BitVec.ofBool f.notPermitted ++ BitVec.ofBool f.illegalCommand

/-- The 3-bit completion code (R130). -/
def completionCode : Completion → BitVec 3
  | .ok                        => 0
  | .error .illegalCommand     => 1
  | .error .notPermitted       => 2
  | .error .configurationError => 3
  | .error .rangeError         => 4
  | .error .ioFailure          => 5

end Sys2Proof.Machine
end

