-- ==== Sys2Proof/Machine/Rom.lean ====
section
/-! DEFINITION. Reading the `sequence_table_rom` and the groups of four pins, and what the spec fixes of
the ROM's contents (spec 20_memory R41 to R45). -/

namespace Sys2Proof

/-- The value of pin position `k` (R11: 0 is A, 1 is B, 2 is C, 3 is D). -/
def Quad.get {α : Type} (q : Quad α) (k : PinPos) : α :=
  match k with
  | 0 => q.a
  | 1 => q.b
  | 2 => q.c
  | 3 => q.d

/-- The group with the value of pin position `k` replaced. -/
def Quad.set {α : Type} (q : Quad α) (k : PinPos) (v : α) : Quad α :=
  match k with
  | 0 => { q with a := v }
  | 1 => { q with b := v }
  | 2 => { q with c := v }
  | 3 => { q with d := v }

namespace Machine

/-- The bit of a level: `LOW = 0`, `HIGH = 1` (R42). -/
def levelBit : Level → Bool
  | .low  => false
  | .high => true

/-- Four bits as a word, bit `k` being element `k` (R42: the word reads `0b dcba`). -/
def quadBits (q : Quad Bool) : BitVec 4 :=
  BitVec.ofBool q.d ++ BitVec.ofBool q.c ++ BitVec.ofBool q.b ++ BitVec.ofBool q.a

/-- Four levels as a word, bit `k` being the level of pin `k` (R42). -/
def levelBits (q : Quad Level) : BitVec 4 :=
  quadBits ⟨levelBit q.a, levelBit q.b, levelBit q.c, levelBit q.d⟩

/-- One row of a sequence table. -/
def tableRow (t : PhaseTable) (p : Phase) : Quad Level :=
  match p with
  | 0 => t.p0
  | 1 => t.p1
  | 2 => t.p2
  | 3 => t.p3
  | 4 => t.p4
  | 5 => t.p5
  | 6 => t.p6
  | 7 => t.p7

/-- The sequence table of a method (R43). -/
def methodTable (rom : SeqRom) (m : Method) : PhaseTable :=
  match m with
  | .waveDrive => rom.waveDrive
  | .fullStep  => rom.fullStep
  | .halfStep  => rom.halfStep

/-- `RomRead(m, p)`, a pure function of the method and the phase (R41). -/
def romRead (rom : SeqRom) (m : Method) (p : Phase) : Quad Level :=
  tableRow (methodTable rom m) p

/-- The phase of a step index: the index modulo 8, its low three bits (R84). -/
def phaseOf (idx : Word) : Phase := ⟨idx.toNat % 8, Nat.mod_lt _ (by decide)⟩

/-- The word at the 5-bit address `m * 8 + p`; the addresses with `m = 3` hold nothing (R45). -/
def romWord (rom : SeqRom) (addr : BitVec 5) : Option (BitVec 4) :=
  (methodOfCode (addr.extractLsb' 3 2)).map fun m =>
    levelBits (romRead rom m ⟨addr.toNat % 8, Nat.mod_lt _ (by decide)⟩)

/-- How many of a phase's four pins are HIGH. -/
def highCount (q : Quad Level) : Nat :=
  (levelBit q.a).toNat + (levelBit q.b).toNat + (levelBit q.c).toNat + (levelBit q.d).toNat

/-- The eight phase indices in order. -/
def phases : List Phase := [0, 1, 2, 3, 4, 5, 6, 7]

/-- Phase 0 of every table is `{LOW, LOW, LOW, HIGH}` (R43 constraint 2). -/
def romBaseline (rom : SeqRom) : Bool :=
  [Method.waveDrive, .fullStep, .halfStep].all fun m => romRead rom m 0 = ⟨.low, .low, .low, .high⟩

/-- The full-resolution tables are identical, repeat after four phases, and drive a single coil in every
phase (R43 constraints 3 to 5). -/
def romFullResolution (rom : SeqRom) : Bool :=
  decide (rom.waveDrive = rom.fullStep)
    && decide (rom.waveDrive.p0 = rom.waveDrive.p4 ∧ rom.waveDrive.p1 = rom.waveDrive.p5
        ∧ rom.waveDrive.p2 = rom.waveDrive.p6 ∧ rom.waveDrive.p3 = rom.waveDrive.p7)
    && phases.all fun p => highCount (tableRow rom.waveDrive p) = 1

/-- The half-step table has eight pairwise different phases, those with an even index with one pin HIGH
and those with an odd index with two (R43 constraints 6 and 7). -/
def romHalfStep (rom : SeqRom) : Bool :=
  decide ((phases.map (tableRow rom.halfStep)).Nodup)
    && phases.all fun p => highCount (tableRow rom.halfStep p) = if p.val % 2 = 0 then 1 else 2

/-- Every constraint the document puts on the ROM's contents (R43). -/
def romAdmissible (rom : SeqRom) : Bool :=
  romBaseline rom && romFullResolution rom && romHalfStep rom

end Machine

end Sys2Proof
end

