-- ==== Sys2Proof/Machine/Operands.lean ====
section
/-! DEFINITION. The arithmetic of the command front-end (spec 00_scope R6, 41_rotation_commands R100,
R106, R108) and INIT's check of the pin identifiers (42_configuration_commands R117). -/

namespace Sys2Proof.Machine

/-- `truncdiv(a, b)` for `b > 0`: the quotient rounded toward zero, `sign(a) * floor(abs(a) / b)` (R6). -/
def truncdiv (a b : Int) : Int := a.sign * ((a.natAbs / b.natAbs : Nat) : Int)

/-- `Q(METHOD)`: steps per quarter turn, `QUARTER_STEPS` for the full-resolution methods and twice that for
half-step (R100). -/
def quarterSteps (c : Config) : Method → Int
  | .waveDrive => c.fullResolutionQuarter
  | .fullStep  => c.fullResolutionQuarter
  | .halfStep  => 2 * c.fullResolutionQuarter

/-- `SPR(METHOD)`: steps per full turn (R100). -/
def stepsPerTurn (c : Config) (m : Method) : Int := 4 * quarterSteps c m

/-- The count of QROT `n` (R101), an unbounded integer. -/
def qrotCount (c : Config) (m : Method) (n : Int) : Int := n * quarterSteps c m

/-- The count of HROT `n` (R102), an unbounded integer: there is no separate overflow of `2n`. -/
def hrotCount (c : Config) (m : Method) (n : Int) : Int := n * 2 * quarterSteps c m

/-- The count of FROT `n` (R103), an unbounded integer. -/
def frotCount (c : Config) (m : Method) (n : Int) : Int := n * 4 * quarterSteps c m

/-- The count of AROT with raw angle `angle`, `angle / 65536` degrees: exact integers and one truncation
toward zero (R106; 90_conflicts C1). -/
def arotCount (c : Config) (m : Method) (angle : Int) : Int :=
  truncdiv (angle * stepsPerTurn c m) (360 * 65536)

/-- `PIN_VALID(id)`: the platform accepts the identifier (R4, R117). -/
def pinValid (c : Config) (id : PinId) : Bool := !c.rejectedPins.contains id

/-- `PinsOk(pins)`: pairwise distinct (six inequalities) and each one valid (R117). -/
def pinsOk (c : Config) (pins : Quad PinId) : Bool :=
  decide (pins.a ≠ pins.b) && decide (pins.a ≠ pins.c) && decide (pins.a ≠ pins.d)
    && decide (pins.b ≠ pins.c) && decide (pins.b ≠ pins.d) && decide (pins.c ≠ pins.d)
    && pinValid c pins.a && pinValid c pins.b && pinValid c pins.c && pinValid c pins.d

end Sys2Proof.Machine
end

