-- ==== Sys2Proof/Machine/Ops.lean ====
section
/-! DEFINITION. The named operations every command and every transition is built from: the derived status
of the block (spec 10_state R14, R29), completing a command and error entry (60_exceptions R140,
R141), the three platform operations (20_memory R47, R48; 40_step_primitive R89), and the start of a
step sequence (R82). -/

namespace Sys2Proof.Machine

/-- `configured`, a function of `ST` (R14). -/
def State.configured (s : State) : Bool :=
  match s.st with
  | .unconf    => false
  | .cfg       => false
  | .idle      => true
  | .pat       => true
  | .holdStart => true
  | .holdWait  => true
  | .off       => true

/-- `busy`, a function of `ST` (R29). -/
def State.busy (s : State) : Bool :=
  match s.st with
  | .unconf    => false
  | .cfg       => true
  | .idle      => false
  | .pat       => true
  | .holdStart => true
  | .holdWait  => true
  | .off       => true

/-- `respond(code)`: the completion of a command (R141). The pulse ends with the next transition
(`State.consume`). DESIGN CHOICE, unsafe: the response counts as given with the transition that ends the command,
also where `rst_n` is 0 in the one cycle of its pulse, of which the spec does not say whether the response was
given (R160, R161; notes/assumptions/16.md). -/
def State.respond (s : State) (c : Completion) : State :=
  { s with rspValid := true, rspCode := c, responses := s.responses ++ [c] }

/-- Where an error leaves the sequencer (R140): a failed construction is undone, an aborted step sequence
ends in idle, and an error found at acceptance changes nothing. -/
def stateAfterError : SeqState → SeqState
  | .unconf    => .unconf
  | .cfg       => .unconf
  | .idle      => .idle
  | .pat       => .idle
  | .holdStart => .idle
  | .holdWait  => .idle
  | .off       => .idle

/-- `raise E`, error entry (R140): the one operation by which any command ends with an error. Nothing is
saved and control goes nowhere; there is no return from it (R142). -/
def State.raise (s : State) (e : Error) : State :=
  State.respond { s with err := errSet s.err e, st := stateAfterError s.st } (.error e)

/-- `emit E`: append an event to the trace (R7, R8). -/
def State.emit (s : State) (e : Event) : State := { s with trace := s.trace ++ [e] }

/-- The platform's answer that `io_err` stands for (R136). -/
def answerOf (ioErr : Bool) : Answer := if ioErr then .fail else .ok

/-- How a platform operation went, with the state it leaves. -/
inductive OpResult where
  | done (s : State)
  | failed (s : State)

/-- Go on after a platform operation that succeeded; a failed one ends the command with IoFailure and no
further operation is issued (R136). -/
def OpResult.andThen (r : OpResult) (f : State → State) : State :=
  match r with
  | .done s   => f s
  | .failed s => s.raise .ioFailure

/-- `PinWrite(k, v)` (R47): the event is emitted whatever the answer; a failed write changes no level. -/
def pinWrite (k : PinPos) (v : Level) (ioErr : Bool) (s : State) : OpResult :=
  if ioErr then .failed (s.emit (.wr (s.pinId.get k) v (answerOf ioErr)))
  else .done { s.emit (.wr (s.pinId.get k) v (answerOf ioErr)) with pinLvl := s.pinLvl.set k v }

/-- `PinConfigure(k)` (R48). It does not write `PINLVL`. -/
def pinConfigure (k : PinPos) (ioErr : Bool) (s : State) : OpResult :=
  if ioErr then .failed (s.emit (.cfg (s.pinId.get k) (answerOf ioErr)))
  else .done { s.emit (.cfg (s.pinId.get k) (answerOf ioErr)) with pinOe := s.pinOe.set k true }

/-- Issuing `Hold(DUR)` (R89): the answer is taken when the hold is issued, and a failed hold consumes no
time unit. -/
def issueHold (ioErr : Bool) (s : State) : OpResult :=
  if ioErr then .failed (s.emit (.hold s.dur (answerOf ioErr)))
  else .done { s.emit (.hold s.dur (answerOf ioErr)) with tmr := s.dur }

/-- `StepSequence(count)`, the start of a step sequence (R82, R83). -/
def State.startSequence (s : State) (count : Int) : State :=
  if count = 0 then s.respond .ok
  else if 0 < count then
    { s with dir := .descending, idx := BitVec.ofInt 32 count, limit := BitVec.ofInt 32 count, sub := 0, st := .pat }
  else
    { s with dir := .ascending, idx := 0, limit := BitVec.ofNat 32 count.natAbs, sub := 0, st := .pat }

/-- What the rotation commands share (R101 to R103, R106): the lifecycle check, the range check, and the
sequence of that count. -/
def State.rotate (s : State) (count : Int) : State :=
  if !s.configured then s.raise .notPermitted
  else if !fitsS32 count then s.raise .rangeError
  else s.startSequence count

/-- A platform operation, with what it needs of the `io_*` ports (R10, R47, R48, R89). -/
inductive IoOp where
  | configureOutput (pin : PinId)
  | writeLevel (pin : PinId) (level : Level)
  | hold (duration : Word)
  deriving DecidableEq, Repr

/-- The pattern level of the pin that `S_PAT` operates on (R85). -/
def State.patternLevel (s : State) : Level :=
  (romRead s.config.seqRom s.method (phaseOf s.idx)).get s.sub

/-- The operation the block issues in this state when it is not in reset; none where `io_valid = 0`
(R10, R47, R48, R89). -/
def State.issuedOp (s : State) : Option IoOp :=
  match s.st with
  | .unconf    => none
  | .cfg       => some (.configureOutput (s.pinId.get s.sub))
  | .idle      => none
  | .pat       => some (.writeLevel (s.pinId.get s.sub) s.patternLevel)
  | .holdStart => some (.hold s.dur)
  | .holdWait  => none
  | .off       => some (.writeLevel (s.pinId.get s.sub) .low)

/-- The `io_*` output ports in one cycle (R10). -/
structure IoPort where
  /-- `io_valid`. -/
  valid : Bool
  /-- `io_kind`: 0, `configure_output`; 1, `write_level`; 2, `hold`. -/
  kind  : BitVec 2
  /-- `io_pin`. -/
  pin   : PinId
  /-- `io_level`. -/
  level : Bool
  /-- `io_dur`. -/
  dur   : Word
  deriving DecidableEq, Repr

/-- The wires of the `io_*` ports in the cycle of that number (R10, R47, R48, R89). Without an operation
`io_kind` and `io_pin` are free values, and "0 otherwise" of `io_level` and `io_dur` is read as taking in
that cycle (DEDUCED, notes/assumptions/8.md). -/
def ioPort (cycle : Nat) : Option IoOp → IoPort
  | some (.configureOutput pin)  => { valid := true, kind := 0, pin := pin, level := false, dur := 0 }
  | some (.writeLevel pin level) =>
    { valid := true, kind := 1, pin := pin, level := levelBit level, dur := 0 }
  | some (.hold duration)        => { valid := true, kind := 2, pin := 0, level := false, dur := duration }
  | none =>
    { valid := false, kind := BitVec.ofNat 2 (Config.idleIoKind cycle).val, pin := Config.idleIoPin cycle,
      level := false, dur := 0 }

/-- The event of an operation with the platform's answer (R8). -/
def eventOf (op : IoOp) (a : Answer) : Event :=
  match op with
  | .configureOutput pin  => .cfg pin a
  | .writeLevel pin level => .wr pin level a
  | .hold d               => .hold d a

end Sys2Proof.Machine
end

