-- ==== Sys2Proof/Machine/Configuration.lean ====
section
/-! DEFINITION. The meanings of INIT, SETDUR and SETMETH at their acceptance (spec
42_configuration_commands). INIT's four `configure_output` operations follow in `cfgTransition`. -/

namespace Sys2Proof.Machine

/-- INIT (R115): refused unless unconstructed; the pins are checked before anything is written. -/
def execInit (pins : Quad PinId) (dur : Word) (method : Method) (s : State) :
    Host.Outcome State Fault Refusal :=
  if s.st ≠ .unconf then .next (s.raise .notPermitted)
  else if !pinsOk s.config pins then .next (s.raise .configurationError)
  else .next { s with pinId := pins, dur := dur, method := method, sub := 0, st := .cfg }

/-- SETDUR (R120). -/
def execSetdur (d : Word) (s : State) : Host.Outcome State Fault Refusal :=
  if !s.configured then .next (s.raise .notPermitted)
  else .next (State.respond { s with dur := d } .ok)

/-- SETMETH (R122). -/
def execSetmeth (method : Method) (s : State) : Host.Outcome State Fault Refusal :=
  if !s.configured then .next (s.raise .notPermitted)
  else .next (State.respond { s with method := method } .ok)

end Sys2Proof.Machine
end

