-- ==== Sys2Proof/Machine/Rotation.lean ====
section
/-! DEFINITION. The meanings of the rotation commands at their acceptance (spec 41_rotation_commands); the
elementary steps follow in Machine/Engine.lean. -/

namespace Sys2Proof.Machine

/-- QROT (R101): `n` quarter turns. -/
def execQrot (n : Int) (s : State) : Host.Outcome State Fault Refusal :=
  .next (s.rotate (qrotCount s.config s.method n))

/-- HROT (R102): `n` half turns. -/
def execHrot (n : Int) (s : State) : Host.Outcome State Fault Refusal :=
  .next (s.rotate (hrotCount s.config s.method n))

/-- FROT (R103): `n` full turns. -/
def execFrot (n : Int) (s : State) : Host.Outcome State Fault Refusal :=
  .next (s.rotate (frotCount s.config s.method n))

/-- AROT (R106): `angle / 65536` degrees. -/
def execArot (angle : Int) (s : State) : Host.Outcome State Fault Refusal :=
  .next (s.rotate (arotCount s.config s.method angle))

end Sys2Proof.Machine
end

