-- ==== Sys2Proof/Machine/StepPrimitive.lean ====
section
/-! DEFINITION. The meaning of STEP at its acceptance (spec 40_step_primitive R80); the elementary steps
follow in Machine/Engine.lean. -/

namespace Sys2Proof.Machine

/-- STEP (R80): every 32-bit count is executable, so there is no range check. -/
def execStep (count : Int) (s : State) : Host.Outcome State Fault Refusal :=
  if !s.configured then .next (s.raise .notPermitted)
  else .next (s.startSequence count)

end Sys2Proof.Machine
end

