-- ==== Sys2Proof/Machine/Dispatch.lean ====
section
/-! DEFINITION. One arm for each command: the transition that accepts it. -/

namespace Sys2Proof.Machine

def exec (i : Instr) (s : State) : Host.Outcome State Fault Refusal :=
  match i with
  | .init pins dur method => Sys2Proof.Machine.execInit pins dur method s
  | .step count => Sys2Proof.Machine.execStep count s
  | .qrot n => Sys2Proof.Machine.execQrot n s
  | .hrot n => Sys2Proof.Machine.execHrot n s
  | .frot n => Sys2Proof.Machine.execFrot n s
  | .arot angle => Sys2Proof.Machine.execArot angle s
  | .setdur d => Sys2Proof.Machine.execSetdur d s
  | .setmeth method => Sys2Proof.Machine.execSetmeth method s

end Sys2Proof.Machine
end

