-- ==== Sys2Proof/Machine/Engine.lean ====
section
/-! DEFINITION. The sequencer between commands and inside one: what it takes from the input ports, reset
(spec 70_reset_and_hazards R160), and the transition of each executing state (40_step_primitive R85 to
R89, 42_configuration_commands R116). -/

namespace Sys2Proof.Machine

/-- The inputs of this transition: the script's next, or the free value where the script has ended. -/
def State.inputs (s : State) : Inputs :=
  match s.script with
  | i :: _ => i
  | []     => Config.freeInputs s.cycle

/-- The transition's inputs are used up, and a response pulse lasts one cycle (R141: `rsp_valid = 0` in
every other cycle). `rsp_code` is written by a response alone (R26). -/
def State.consume (s : State) : State :=
  { s with rspValid := false, script := s.script.tail, cycle := s.cycle + 1 }

/-- Reset (R160): every register at its reset value. The parameters are not registers, reset emits no event,
and what was observed before stays observed. DESIGN CHOICE, unsafe: that takes in the response whose one cycle
this is (notes/assumptions/16.md). -/
def State.applyReset (s : State) : State :=
  { State.reset with
    config := s.config, trace := s.trace, responses := s.responses, script := s.script, cycle := s.cycle }

/-- `S_CFG` (R116): one `configure_output`, then the next pin, or the end of INIT. -/
def cfgTransition (ioErr : Bool) (s : State) : State :=
  (pinConfigure s.sub ioErr s).andThen fun s =>
    if s.sub.val < 3 then { s with sub := s.sub + 1 }
    else State.respond { s with st := .idle } .ok

/-- `S_PAT` (R85): one pattern write, then the next pin, or the hold. -/
def patTransition (ioErr : Bool) (s : State) : State :=
  (pinWrite s.sub s.patternLevel ioErr s).andThen fun s =>
    if s.sub.val < 3 then { s with sub := s.sub + 1 }
    else { s with st := .holdStart }

/-- `S_HOLD_START` (R89). -/
def holdStartTransition (ioErr : Bool) (s : State) : State :=
  (issueHold ioErr s).andThen fun s => { s with st := .holdWait }

/-- `S_HOLD_WAIT` (R89): at zero on to the de-energize writes, consuming no tick; otherwise a tick counts
and without one nothing changes. -/
def holdWaitTransition (tick : Bool) (s : State) : State :=
  if s.tmr = 0 then { s with sub := 0, st := .off }
  else if tick then { s with tmr := s.tmr - 1 }
  else s

/-- The index after an elementary step (R88). -/
def nextIdx (s : State) : Word :=
  match s.dir with
  | .descending => s.idx - 1
  | .ascending  => s.idx + 1

/-- The sequence is done when the new index is 0 (descending) or the limit (ascending) (R88). -/
def sequenceDone (s : State) : Bool :=
  match s.dir with
  | .descending => decide (nextIdx s = 0)
  | .ascending  => decide (nextIdx s = s.limit)

/-- `Advance()` (R88). -/
def State.advance (s : State) : State :=
  if sequenceDone s then State.respond { s with idx := nextIdx s, st := .idle } .ok
  else { s with idx := nextIdx s, sub := 0, st := .pat }

/-- `S_OFF` (R87): one LOW write, then the next pin, or the end of the elementary step. -/
def offTransition (ioErr : Bool) (s : State) : State :=
  (pinWrite s.sub .low ioErr s).andThen fun s =>
    if s.sub.val < 3 then { s with sub := s.sub + 1 } else s.advance

/-- The transition of the sequencer that no command starts: `io_err` is looked at only where an operation is
issued and `tick` only in `S_HOLD_WAIT` (R146); the waiting states wait (R151). -/
def engineTransition (i : Inputs) (s : State) : State :=
  match s.st with
  | .unconf    => s
  | .cfg       => cfgTransition i.ioErr s
  | .idle      => s
  | .pat       => patTransition i.ioErr s
  | .holdStart => holdStartTransition i.ioErr s
  | .holdWait  => holdWaitTransition i.tick s
  | .off       => offTransition i.ioErr s

/-- `cmd_ready = 1` exactly when `rst_n = 1` and `busy = 0` (R29). -/
def State.cmdReady (s : State) : Bool := s.inputs.rstN && !s.busy

/-- The output ports of the block (R10) in one cycle. -/
structure Outputs where
  cmdReady   : Bool
  rspValid   : Bool
  rspCode    : BitVec 3
  busy       : Bool
  configured : Bool
  errSticky  : BitVec 5
  pinOut     : BitVec 4
  pinOe      : BitVec 4
  /-- The five `io_*` ports. -/
  io         : IoPort
  deriving DecidableEq, Repr

/-- The outputs of a block that is not in reset. -/
def State.activeOutputs (s : State) : Outputs :=
  { cmdReady   := s.cmdReady
    rspValid   := s.rspValid
    rspCode    := completionCode s.rspCode
    busy       := s.busy
    configured := s.configured
    errSticky  := errBits s.err
    pinOut     := levelBits s.pinLvl
    pinOe      := quadBits s.pinOe
    io         := ioPort s.cycle s.issuedOp }

/-- The outputs in this cycle: while `rst_n = 0` they are those of the reset state, with nothing ready, since
reset is asserted asynchronously (R10, R160). -/
def State.outputs (s : State) : Outputs :=
  if s.inputs.rstN then s.activeOutputs
  else { State.activeOutputs s.applyReset with cmdReady := false }

end Sys2Proof.Machine
end

