-- ==== Sys2Proof/Machine/Step.lean ====
section
/-! DEFINITION. One step: one transition of the sequencer (spec 10_state R20, R29; 70_reset_and_hazards
R160). -/

namespace Sys2Proof.Machine

/-- One transition. Reset overrides everything (R160). A busy block makes its own transition and takes no
command; a ready one accepts the word presented, if there is one (R29). An illegal word completes with
IllegalCommand (R131); a legal one is executed. -/
def step (s : State) : Host.Outcome State Fault Refusal :=
  if !s.inputs.rstN then .next s.consume.applyReset
  else if s.busy || !s.inputs.cmdValid then .next (engineTransition s.inputs s.consume)
  else
    match decode s.inputs.cmdWord with
    | .error _ => .next (s.consume.raise .illegalCommand)
    | .ok i    => exec i s.consume

/-- The state with a command word presented on the command port for the next transition, the block not in
reset. `tick` and `io_err` of that transition and everything after it stay as they were. -/
def State.withFetchWord (s : State) (nbits w : Nat) : State :=
  { s with
    script :=
      { s.inputs with rstN := true, cmdValid := true, cmdWord := tableWord nbits w } :: s.script.tail }

end Sys2Proof.Machine
end

