-- ==== Sys2Proof/Safety.lean ====
section
/-! DEFINITION. The terms in which claims about the machine are made: the inputs a run meets, the
invariant of the sequencer, which registers are live, what a step sequence emits, and when a run has
ended (spec 10_state R26, 40_step_primitive R84 to R93, 70_reset_and_hazards R178). -/

namespace Sys2Proof.Machine

/-- All four pins LOW. -/
def allLow : Quad Level := ⟨.low, .low, .low, .low⟩

/-- All four pins configured as outputs. -/
def allDriven : Quad Bool := ⟨true, true, true, true⟩

/-- The inputs the state meets `n` transitions from now. -/
def State.inputsAt (s : State) (n : Nat) : Inputs :=
  match s.script.drop n with
  | i :: _ => i
  | []     => Config.freeInputs (s.cycle + n)

/-- `n` transitions from a state, stopping at a fault or refusal. -/
def runFor (n : Nat) (s : State) : Host.Outcome State Fault Refusal := Host.Core.run Sys2Proof.core n s

/-- No reset and no failing answer during the next `n` transitions. -/
def QuietFor (s : State) (n : Nat) : Prop :=
  ∀ m, m < n → (s.inputsAt m).rstN = true ∧ (s.inputsAt m).ioErr = false

/-- A tick in each of the next `n` transitions. -/
def TicksFor (s : State) (n : Nat) : Prop :=
  ∀ m, m < n → (s.inputsAt m).tick = true

/-- The block is inside a step sequence (R20). -/
def State.inSequence (s : State) : Bool :=
  match s.st with
  | .unconf    => false
  | .cfg       => false
  | .idle      => false
  | .pat       => true
  | .holdStart => true
  | .holdWait  => true
  | .off       => true

/-- The pattern of the current elementary step, phase `IDX mod 8` of the method's table (R85, R86). -/
def State.pattern (s : State) : Quad Level := romRead s.config.seqRom s.method (phaseOf s.idx)

/-- What holds of every state a run can reach: the facts the spec derives about its own registers. -/
structure Inv (s : State) : Prop where
  /-- No pin has been written before construction is over (R18, R177). -/
  lowUntilConstructed : s.st = .unconf ∨ s.st = .cfg → s.pinLvl = allLow
  /-- The pin assignment passed INIT's check (R117). -/
  assigned : s.st ≠ .unconf → pinsOk s.config s.pinId = true
  /-- A constructed block drives all four pins (R115). -/
  driven : s.configured = true → s.pinOe = allDriven
  /-- INIT configures the pins in order (R116). -/
  configuring : s.st = .cfg → ∀ k : PinPos, k < s.sub → s.pinOe.get k = true
  /-- A descending index stays within `1 .. LIMIT` (R15, R88). -/
  descending : s.inSequence = true → s.dir = .descending →
    1 ≤ s.idx.toNat ∧ s.idx.toNat ≤ s.limit.toNat ∧ s.limit.toNat < 2 ^ 31
  /-- An ascending index stays within `0 .. LIMIT - 1` (R15, R88). -/
  ascending : s.inSequence = true → s.dir = .ascending →
    s.idx.toNat < s.limit.toNat ∧ s.limit.toNat ≤ 2 ^ 31
  /-- The timer never exceeds the duration it was loaded from (R17). -/
  timed : s.st = .holdWait → s.tmr.toNat ≤ s.dur.toNat
  /-- The pattern writes done so far stand on the pins (R85). -/
  writing : s.st = .pat → ∀ k : PinPos, k < s.sub → s.pinLvl.get k = s.pattern.get k
  /-- The pins keep the pattern for the whole hold (R89). -/
  holding : s.st = .holdStart ∨ s.st = .holdWait → s.pinLvl = s.pattern
  /-- The pattern less the LOW writes done so far (R87, R165). -/
  releasing : s.st = .off → ∀ k : PinPos,
    s.pinLvl.get k = if k < s.sub then .low else s.pattern.get k
  /-- `busy = 0` in the cycle of a response (R141). -/
  responding : s.rspValid = true → s.busy = false

/-- The state with every register that R26 says no rule reads in this `ST` put at its reset value. Two
states with equal images differ in dead registers only. -/
def State.live (s : State) : State :=
  match s.st with
  | .unconf    =>
    { s with pinId := State.reset.pinId, method := State.reset.method, dur := State.reset.dur,
             dir := State.reset.dir, idx := State.reset.idx, limit := State.reset.limit,
             sub := State.reset.sub, tmr := State.reset.tmr }
  | .cfg       =>
    { s with dir := State.reset.dir, idx := State.reset.idx, limit := State.reset.limit,
             tmr := State.reset.tmr }
  | .idle      =>
    { s with dir := State.reset.dir, idx := State.reset.idx, limit := State.reset.limit,
             sub := State.reset.sub, tmr := State.reset.tmr }
  | .pat       => { s with tmr := State.reset.tmr }
  | .holdStart => { s with sub := State.reset.sub, tmr := State.reset.tmr }
  | .holdWait  => { s with sub := State.reset.sub }
  | .off       => { s with tmr := State.reset.tmr }

/-- The state reached by accepting a sequence of `count` elementary steps (R82, R83), written out. -/
def sequenceStarted (s : State) (count : Int) : State :=
  if count = 0 then { s with rspValid := true, rspCode := .ok, responses := s.responses ++ [.ok] }
  else
    { s with
      dir   := if 0 < count then .descending else .ascending
      idx   := if 0 < count then BitVec.ofNat 32 count.natAbs else 0
      limit := BitVec.ofNat 32 count.natAbs
      sub   := 0
      st    := .pat }

/-- What an error found at acceptance leaves (R140): its flag, the response, and nothing else. -/
def errorReported (s : State) (e : Error) : State :=
  { s with err := errSet s.err e, rspValid := true, rspCode := .error e,
           responses := s.responses ++ [.error e] }

/-- What a failed platform operation leaves (R136, R140): the event with its answer, the flag, the response,
and the sequencer where a failure leaves it. -/
def operationFailed (s : State) (op : IoOp) : State :=
  { s with trace := s.trace ++ [eventOf op .fail]
           err := { s.err with ioFailure := true }
           st := if s.st = .cfg then .unconf else .idle
           rspValid := true
           rspCode := .error .ioFailure
           responses := s.responses ++ [.error .ioFailure] }

/-- The step indices of a count, in the order the steps are executed (R84). -/
def indexStream (count : Int) : List Nat :=
  if 0 < count then (List.range count.natAbs).map fun j => count.natAbs - j
  else List.range count.natAbs

/-- The phase of a step index (R84). -/
def phaseOfIndex (i : Nat) : Phase := ⟨i % 8, Nat.mod_lt _ (by decide)⟩

/-- The pin positions from `k` on, in the order A, B, C, D. -/
def pinsFrom (k : PinPos) : List PinPos := ([0, 1, 2, 3] : List PinPos).drop k.val

/-- Successful pattern writes of phase `p`, from pin `k` on (R85, R90). -/
def patternEvents (s : State) (p : Phase) (k : PinPos) : List Event :=
  (pinsFrom k).map fun j => .wr (s.pinId.get j) ((romRead s.config.seqRom s.method p).get j) .ok

/-- Successful de-energize writes, from pin `k` on (R87, R90). -/
def lowEvents (s : State) (k : PinPos) : List Event :=
  (pinsFrom k).map fun j => .wr (s.pinId.get j) .low .ok

/-- The nine events of a successful elementary step of phase `p` (R86, R90). -/
def stepEvents (s : State) (p : Phase) : List Event :=
  patternEvents s p 0 ++ [.hold s.dur .ok] ++ lowEvents s 0

/-- The events of a successful sequence of `count` elementary steps (R90). -/
def sequenceTrace (s : State) (count : Int) : List Event :=
  (indexStream count).flatMap fun i => stepEvents s (phaseOfIndex i)

/-- The step indices still to come after the current one (R84, R88). -/
def laterIndices (s : State) : List Nat :=
  match s.dir with
  | .descending => (List.range (s.idx.toNat - 1)).map fun j => s.idx.toNat - 1 - j
  | .ascending  => (List.range (s.limit.toNat - (s.idx.toNat + 1))).map fun j => s.idx.toNat + 1 + j

/-- The events of the elementary steps still to come after the current one. -/
def laterEvents (s : State) : List Event :=
  (laterIndices s).flatMap fun i => stepEvents s (phaseOfIndex i)

/-- The events the command in progress has still to emit if every answer is `ok` (R90, R116). -/
def remainingEvents (s : State) : List Event :=
  match s.st with
  | .unconf    => []
  | .cfg       => (pinsFrom s.sub).map fun j => .cfg (s.pinId.get j) .ok
  | .idle      => []
  | .pat       => patternEvents s (phaseOf s.idx) s.sub ++ [.hold s.dur .ok] ++ lowEvents s 0 ++ laterEvents s
  | .holdStart => [.hold s.dur .ok] ++ lowEvents s 0 ++ laterEvents s
  | .holdWait  => lowEvents s 0 ++ laterEvents s
  | .off       => lowEvents s s.sub ++ laterEvents s

/-- The time units the command in progress has still to wait for (R89, R91). -/
def remainingTime (s : State) : Nat :=
  match s.st with
  | .unconf    => 0
  | .cfg       => 0
  | .idle      => 0
  | .pat       => s.dur.toNat + (laterIndices s).length * s.dur.toNat
  | .holdStart => s.dur.toNat + (laterIndices s).length * s.dur.toNat
  | .holdWait  => s.tmr.toNat + (laterIndices s).length * s.dur.toNat
  | .off       => (laterIndices s).length * s.dur.toNat

/-- The time units that the next transition counts: one where the timer runs and a tick is seen (R89). -/
def timeCounted (s : State) : Nat :=
  if s.st = .holdWait ∧ s.tmr ≠ 0 ∧ s.inputs.tick = true then 1 else 0

/-- WAVE_DRIVE and FULL_STEP, the full-resolution methods (R9). -/
def fullResolution (m : Method) : Prop := m = .waveDrive ∨ m = .fullStep

/-- A hold event, whatever its duration and answer. -/
def isHold : Event → Bool
  | .cfg _ _  => false
  | .wr _ _ _ => false
  | .hold _ _ => true

/-- A write event, whatever its pin, level and answer. -/
def isWrite : Event → Bool
  | .cfg _ _  => false
  | .wr _ _ _ => true
  | .hold _ _ => false

/-- The states are equal but for which of the two full-resolution methods they hold (R122). -/
def EqualUpToFullResolution (s t : State) : Prop :=
  (s.method = t.method ∨ (fullResolution s.method ∧ fullResolution t.method)) ∧
    t = { s with method := t.method }

/-- The state's pins are HIGH only where the pattern of the current elementary step is (R172). -/
def WithinPattern (s : State) : Prop :=
  s.inSequence = true → ∀ k : PinPos, s.pinLvl.get k = .high → s.pattern.get k = .high

/-! ### The end of a command and of a run (R178) -/

/-- A command is accepted in this transition: `cmd_valid = 1` and `cmd_ready = 1` (R29). -/
def State.accepting (s : State) : Bool := s.cmdReady && s.inputs.cmdValid

/-- The words accepted in the next `n` transitions, in the order of acceptance. -/
def acceptedWords : Nat → State → List CommandWord
  | 0, _     => []
  | n + 1, s =>
    (if s.accepting then [s.inputs.cmdWord] else []) ++
      match step s with
      | .next t    => acceptedWords n t
      | .fault _   => []
      | .refused _ => []

/-- The command accepted in this transition has ended within `n` transitions: its response has been given, and no
reset abandoned it before (R161, R178). There is one command in flight, so the first response after the
acceptance is its own (R141). -/
def CommandEnded (n : Nat) (s : State) : Prop :=
  s.accepting = true ∧ ∃ (m : Nat) (u : State),
    0 < m ∧ m ≤ n ∧ (∀ j, j < m → (s.inputsAt j).rstN = true) ∧ runFor m s = .next u ∧ u.rspValid = true

/-- The run of the commands `words`, presented from reset, has ended after `n` transitions from `s`, in the state `t`:
the last command presented has responded (R178). What the model settles about a run stands in
notes/assumptions/17.md. -/
structure RunEnded (words : List CommandWord) (n : Nat) (s t : State) : Prop where
  /-- The run begins in the state reset leaves, whatever the unspecified registers hold (R26). -/
  fromReset : s.live = s.applyReset.live
  /-- No reset abandons a command of the run, or falls on a response of it. -/
  unreset : ∀ m, m ≤ n → (s.inputsAt m).rstN = true
  reached : runFor n s = .next t
  /-- There is a last command. -/
  presented : words ≠ []
  /-- Every command of the run has been accepted, in order. -/
  accepted : acceptedWords n s = words
  /-- No further command is presented. -/
  last : t.inputs.cmdValid = false
  /-- Each has its response. -/
  answered : t.responses.length = s.responses.length + words.length

/-- The run has ended cleanly: in addition `ERR = 0b00000` (R178). -/
structure RunEndedCleanly (words : List CommandWord) (n : Nat) (s t : State) : Prop where
  ended : RunEnded words n s t
  clean : errClear t.err = true

end Sys2Proof.Machine
end

