-- ==== Sys2Proof/Certificates/Slice0/Obligations.lean ====
section
/-! DEFINITION. The statements for the provers. Each is a claim of the spec's rules about the model; the rules
are named in the docstrings and in OBLIGATIONS.json. -/

open Sys2Proof Sys2Proof.Machine

/-! ### The command word -/

/-- R60 to R68: the decoder gives a well-formed command back from the word the encoder makes of it. -/
def Obligations.DecodeOfEncodeIsIdentity : Prop :=
  ∀ i : Instr, i.wellFormed = true → decode (encode i) = .ok i

/-- R60 to R68: a legal word decodes to a well-formed command, and it is the only word of that command. -/
def Obligations.EachLegalWordHasOneMeaning : Prop :=
  ∀ (w : CommandWord) (i : Instr), decode w = .ok i → i.wellFormed = true ∧ encode i = w

/-- R65, R66, R67: a word is rejected exactly when a clause of R67 holds of it. -/
def Obligations.IllegalWordsAreThoseOfTheRule : Prop :=
  ∀ w : CommandWord,
    (∃ e, decode w = .error e) ↔
      (w.extractLsb' 68 4 = 0 ∨ 9 ≤ (w.extractLsb' 68 4).toNat)
      ∨ w.extractLsb' 64 2 ≠ 0
      ∨ ((2 ≤ (w.extractLsb' 68 4).toNat ∧ (w.extractLsb' 68 4).toNat ≤ 7)
          ∧ (w.extractLsb' 66 2 ≠ 0 ∨ w.extractLsb' 32 32 ≠ 0))
      ∨ (w.extractLsb' 68 4 = 8 ∧ (w.extractLsb' 32 32 ≠ 0 ∨ w.extractLsb' 0 32 ≠ 0))
      ∨ ((w.extractLsb' 68 4 = 1 ∨ w.extractLsb' 68 4 = 8) ∧ w.extractLsb' 66 2 = 3)

/-- R62: a word selects a row of the opcode table exactly when it matches under the row's mask and the row's
extra condition holds; a word with any other opcode is illegal. -/
def Obligations.OpcodeRowsSelectTheirCommands : Prop :=
  ∀ w : CommandWord,
    ((∃ pins d m, decode w = .ok (.init pins d m)) ↔
      w &&& 0xF30000000000000000#72 = 0x100000000000000000#72 ∧ w.extractLsb' 66 2 ≠ 3)
    ∧ ((∃ n, decode w = .ok (.step n)) ↔ w &&& 0xFFFFFFFFFF00000000#72 = 0x200000000000000000#72)
    ∧ ((∃ n, decode w = .ok (.qrot n)) ↔ w &&& 0xFFFFFFFFFF00000000#72 = 0x300000000000000000#72)
    ∧ ((∃ n, decode w = .ok (.hrot n)) ↔ w &&& 0xFFFFFFFFFF00000000#72 = 0x400000000000000000#72)
    ∧ ((∃ n, decode w = .ok (.frot n)) ↔ w &&& 0xFFFFFFFFFF00000000#72 = 0x500000000000000000#72)
    ∧ ((∃ n, decode w = .ok (.arot n)) ↔ w &&& 0xFFFFFFFFFF00000000#72 = 0x600000000000000000#72)
    ∧ ((∃ d, decode w = .ok (.setdur d)) ↔ w &&& 0xFFFFFFFFFF00000000#72 = 0x700000000000000000#72)
    ∧ ((∃ m, decode w = .ok (.setmeth m)) ↔
      w &&& 0xF3FFFFFFFFFFFFFFFF#72 = 0x800000000000000000#72 ∧ w.extractLsb' 66 2 ≠ 3)
    ∧ (w.extractLsb' 68 4 = 0 ∨ 9 ≤ (w.extractLsb' 68 4).toNat → ∃ e, decode w = .error e)

/-- R63, R64, R66: words written out from the spec's encodings decode to the commands they stand for. -/
def Obligations.WordsOfTheSpecDecode : Prop :=
  decode 0x140000000304030201#72 = .ok (.init ⟨1, 2, 3, 4⟩ 3 .fullStep)
  ∧ decode 0x2000000000FFFFFFFD#72 = .ok (.step (-3))
  ∧ decode 0x300000000000000001#72 = .ok (.qrot 1)
  ∧ decode 0x4000000000FFFFFFFF#72 = .ok (.hrot (-1))
  ∧ decode 0x500000000000000001#72 = .ok (.frot 1)
  ∧ decode 0x6000000000FFE20000#72 = .ok (.arot (-1966080))
  ∧ decode 0x700000000000000005#72 = .ok (.setdur 5)
  ∧ decode 0x880000000000000000#72 = .ok (.setmeth .halfStep)

/-! ### Fetch: what a step does with the word presented -/

/-- A step runs the decoded instruction: a ready block that is presented a legal word makes that command's
transition, on the state with the inputs used up and the last response's pulse over (R29, R68, R141). -/
def Obligations.StepRunsDecodedCommand : Prop :=
  ∀ (s : State) (i : Instr),
    s.inputs.rstN = true → s.busy = false → s.inputs.cmdValid = true → decode s.inputs.cmdWord = .ok i →
    step s = exec i { s with rspValid := false, script := s.script.tail, cycle := s.cycle + 1 }

/-- R131: an illegal word accepted by a ready block, constructed or not, completes with IllegalCommand; no
other register changes and no operation is issued. -/
def Obligations.IllegalWordCompletesWithItsError : Prop :=
  ∀ s : State,
    s.inputs.rstN = true → s.busy = false → s.inputs.cmdValid = true →
    (∃ e, decode s.inputs.cmdWord = .error e) →
    step s = .next
      { s with err := { s.err with illegalCommand := true }
               rspValid := true
               rspCode := .error .illegalCommand
               responses := s.responses ++ [.error .illegalCommand]
               script := s.script.tail
               cycle := s.cycle + 1 }

/-- R29: the derived outputs, and that a block presented nothing, or a command while it is busy, takes
none: a ready block waits and changes no register, and a busy block does the same whatever stands on the
command port. -/
def Obligations.CommandsAreTakenOnlyWhenReady : Prop :=
  ∀ s : State,
    (s.busy = true ↔ s.st = .cfg ∨ s.st = .pat ∨ s.st = .holdStart ∨ s.st = .holdWait ∨ s.st = .off)
    ∧ (s.cmdReady = true ↔ s.inputs.rstN = true ∧ s.busy = false)
    ∧ (s.inputs.rstN = true → s.busy = false → s.inputs.cmdValid = false →
        step s = .next { s with rspValid := false, script := s.script.tail, cycle := s.cycle + 1 })
    ∧ (∀ (i : Inputs) (rest : List Inputs) (v : Bool) (w : CommandWord),
        s.script = i :: rest → s.busy = true →
        step { s with script := { i with cmdValid := v, cmdWord := w } :: rest } = step s)

/-- R10, R19, R26, R42, R130: outside reset every output port shows what its register or rule says: the status bits,
the completion code, bit `c` of `ERR` for code `c`, bit `k` of the pin ports for pin `k`, and the five wires of the
operation that R47, R48 or R89 issues: in `S_CFG` the `configure_output` of pin `SUB` (R116), in `S_PAT` the write of
the pattern's level to it (R85), in `S_OFF` the LOW write (R87), in `S_HOLD_START` the hold (R89). That the wires
follow `ST` in that very cycle is read from those rules (DEDUCED, notes/assumptions/8.md, unsafe for the cycle in
which an output changes); so is that `io_level` and `io_dur` are 0 where no operation is issued, and there
`io_kind` is not 3. -/
def Obligations.OutputPortsShowTheRegisters : Prop :=
  ∀ s : State, s.inputs.rstN = true →
    (s.outputs.cmdReady = !s.busy ∧ s.outputs.busy = s.busy ∧ s.outputs.configured = s.configured
      ∧ s.outputs.rspValid = s.rspValid)
    ∧ s.outputs.rspCode = (match s.rspCode with
        | .ok => 0 | .error .illegalCommand => 1 | .error .notPermitted => 2
        | .error .configurationError => 3 | .error .rangeError => 4 | .error .ioFailure => 5)
    ∧ (s.outputs.errSticky.getLsbD 0 = s.err.illegalCommand ∧ s.outputs.errSticky.getLsbD 1 = s.err.notPermitted
      ∧ s.outputs.errSticky.getLsbD 2 = s.err.configurationError ∧ s.outputs.errSticky.getLsbD 3 = s.err.rangeError
      ∧ s.outputs.errSticky.getLsbD 4 = s.err.ioFailure)
    ∧ (∀ k : PinPos, s.outputs.pinOut.getLsbD k.val = decide (s.pinLvl.get k = .high)
      ∧ s.outputs.pinOe.getLsbD k.val = s.pinOe.get k)
    ∧ (s.st = .cfg →
        s.outputs.io = { valid := true, kind := 0, pin := s.pinId.get s.sub, level := false, dur := 0 })
    ∧ (s.st = .pat →
        s.outputs.io = { valid := true, kind := 1, pin := s.pinId.get s.sub,
                         level := decide (s.pattern.get s.sub = .high), dur := 0 })
    ∧ (s.st = .holdStart →
        s.outputs.io = { valid := true, kind := 2, pin := 0, level := false, dur := s.dur })
    ∧ (s.st = .off →
        s.outputs.io = { valid := true, kind := 1, pin := s.pinId.get s.sub, level := false, dur := 0 })
    ∧ (s.st = .unconf ∨ s.st = .idle ∨ s.st = .holdWait →
        s.outputs.io.valid = false ∧ s.outputs.io.kind ≠ 3 ∧ s.outputs.io.level = false ∧ s.outputs.io.dur = 0)

/-! ### Acceptance of each command -/

/-- R117: the four identifiers are pairwise distinct and the platform accepts each of them; INIT on an
unconstructed block is accepted exactly then, and otherwise changes nothing but the ERR flag. By default every
identifier is accepted. -/
def Obligations.PinCheckDecidesConstruction : Prop :=
  (∀ id : PinId, pinValid State.reset.config id = true)
  ∧ ∀ (s : State) (p : Quad PinId) (d : Word) (m : Method),
    (pinsOk s.config p = true ↔
      (p.a ≠ p.b ∧ p.a ≠ p.c ∧ p.a ≠ p.d ∧ p.b ≠ p.c ∧ p.b ≠ p.d ∧ p.c ≠ p.d)
      ∧ ∀ k : PinPos, p.get k ∉ s.config.rejectedPins)
    ∧ (s.st = .unconf →
        exec (.init p d m) s =
          .next (if pinsOk s.config p then { s with pinId := p, dur := d, method := m, sub := 0, st := .cfg }
                 else errorReported s .configurationError))

/-- R115, R116: INIT accepted by an unconstructed block with distinct valid pins configures A, B, C, D in that
order in the four transitions that follow, and ends constructed, with the response OK; the pins keep their
levels and no time passes. -/
def Obligations.InitConstructsTheDriver : Prop :=
  ∀ (s : State) (p : Quad PinId) (d : Word) (m : Method),
    s.st = .unconf → pinsOk s.config p = true → QuietFor s 4 →
    ∃ u, exec (.init p d m) s = .next u ∧
      runFor 4 u = .next
        { s with
          st := .idle
          pinId := p
          dur := d
          method := m
          sub := 3
          pinOe := allDriven
          trace := s.trace ++ [.cfg p.a .ok, .cfg p.b .ok, .cfg p.c .ok, .cfg p.d .ok]
          rspValid := true
          rspCode := .ok
          responses := s.responses ++ [.ok]
          script := s.script.drop 4
          cycle := s.cycle + 4 }

/-- R80, R82: STEP on a constructed block starts a sequence of `count` elementary steps, for every 32-bit
count. -/
def Obligations.StepStartsItsSequence : Prop :=
  ∀ (s : State) (count : Int),
    s.configured = true → fitsS32 count = true →
    exec (.step count) s = .next (sequenceStarted s count)

/-- R83: a zero count, from whichever command it comes, changes no register and responds OK. -/
def Obligations.ZeroCountChangesNothing : Prop :=
  ∀ (s : State) (i : Instr),
    s.configured = true → i ∈ [Instr.step 0, .qrot 0, .hrot 0, .frot 0, .arot 0] →
    exec i s = .next { s with rspValid := true, rspCode := .ok, responses := s.responses ++ [.ok] }

/-- R100, R105: QROT, HROT and FROT start the sequence of the exact product when it fits 32 signed bits, and
otherwise end with RangeError and change no other register; with the 512 steps per quarter turn of this hardware
(R4) the operands that pass are those of R105's table. -/
def Obligations.RotationsStartOrReportRange : Prop :=
  ∀ (s : State) (n : Int),
    s.st = .idle →
    (∀ q : Int, q = (if s.method = .halfStep then 2 else 1) * (s.config.fullResolutionQuarter : Int) →
      exec (.qrot n) s = .next (if fitsS32 (n * q) then sequenceStarted s (n * q)
                                else errorReported s .rangeError)
      ∧ exec (.hrot n) s = .next (if fitsS32 (n * (2 * q)) then sequenceStarted s (n * (2 * q))
                                  else errorReported s .rangeError)
      ∧ exec (.frot n) s = .next (if fitsS32 (n * (4 * q)) then sequenceStarted s (n * (4 * q))
                                  else errorReported s .rangeError))
    ∧ (s.config.fullResolutionQuarter = 512 → s.method ≠ .halfStep →
      exec (.qrot n) s = .next (if -4194304 ≤ n ∧ n ≤ 4194303 then sequenceStarted s (n * 512)
                                else errorReported s .rangeError)
      ∧ exec (.hrot n) s = .next (if -2097152 ≤ n ∧ n ≤ 2097151 then sequenceStarted s (n * 1024)
                                  else errorReported s .rangeError)
      ∧ exec (.frot n) s = .next (if -1048576 ≤ n ∧ n ≤ 1048575 then sequenceStarted s (n * 2048)
                                  else errorReported s .rangeError))
    ∧ (s.config.fullResolutionQuarter = 512 → s.method = .halfStep →
      exec (.qrot n) s = .next (if -2097152 ≤ n ∧ n ≤ 2097151 then sequenceStarted s (n * 1024)
                                else errorReported s .rangeError)
      ∧ exec (.hrot n) s = .next (if -1048576 ≤ n ∧ n ≤ 1048575 then sequenceStarted s (n * 2048)
                                  else errorReported s .rangeError)
      ∧ exec (.frot n) s = .next (if -524288 ≤ n ∧ n ≤ 524287 then sequenceStarted s (n * 4096)
                                  else errorReported s .rangeError))

/-- R104: `HROT n` does what `QROT 2n` does, and `FROT n` what `HROT 2n` and `QROT 4n` do, whenever the other
operand exists; where it does not, the command reports RangeError, whatever nonzero number of steps a quarter
turn has. -/
def Obligations.RotationIdentities : Prop :=
  ∀ (s : State) (n : Int),
    (fitsS32 (2 * n) = true →
      exec (.hrot n) s = exec (.qrot (2 * n)) s ∧ exec (.frot n) s = exec (.hrot (2 * n)) s)
    ∧ (fitsS32 (4 * n) = true → exec (.frot n) s = exec (.qrot (4 * n)) s)
    ∧ (s.st = .idle → s.config.fullResolutionQuarter ≠ 0 → fitsS32 (2 * n) = false →
        exec (.hrot n) s = .next (errorReported s .rangeError))
    ∧ (s.st = .idle → s.config.fullResolutionQuarter ≠ 0 → fitsS32 (4 * n) = false →
        exec (.frot n) s = .next (errorReported s .rangeError))

/-- R106: AROT starts the sequence of `A * SPR / (360 * 65536)` steps, truncated toward zero, and on an idle block
reports RangeError where that does not fit. With the 512 steps per quarter turn of this hardware (R4) the count is `A / 11520`, and
`A / 5760` in HALF_STEP, and never leaves the 32-bit range: it is at most 372827 in magnitude. -/
def Obligations.AngleIsTruncatedTowardZero : Prop :=
  ∀ (s : State) (angle : Int),
    s.configured = true → fitsS32 angle = true →
    (∀ spr : Int, spr = (if s.method = .halfStep then 8 else 4) * (s.config.fullResolutionQuarter : Int) →
      (fitsS32 (Int.tdiv (angle * spr) 23592960) = true →
        exec (.arot angle) s = .next (sequenceStarted s (Int.tdiv (angle * spr) 23592960)))
      ∧ (fitsS32 (Int.tdiv (angle * spr) 23592960) = false → s.st = .idle →
        exec (.arot angle) s = .next (errorReported s .rangeError)))
    ∧ (s.config.fullResolutionQuarter = 512 → s.method ≠ .halfStep →
        exec (.arot angle) s = .next (sequenceStarted s (Int.tdiv angle 11520)))
    ∧ (s.config.fullResolutionQuarter = 512 → s.method = .halfStep →
        exec (.arot angle) s = .next (sequenceStarted s (Int.tdiv angle 5760)))
    ∧ (Int.tdiv angle 11520).natAbs ≤ 372827 ∧ (Int.tdiv angle 5760).natAbs ≤ 372827

/-- R120, R122: on a constructed block SETDUR writes `DUR` and SETMETH writes `METHOD`; each responds OK and
changes nothing else, so no event is emitted. -/
def Obligations.SettersWriteTheirRegister : Prop :=
  ∀ (s : State) (d : Word) (m : Method),
    s.configured = true →
    exec (.setdur d) s =
      .next { s with dur := d, rspValid := true, rspCode := .ok, responses := s.responses ++ [.ok] }
    ∧ exec (.setmeth m) s =
      .next { s with method := m, rspValid := true, rspCode := .ok, responses := s.responses ++ [.ok] }

/-- R124: of two setters of the same kind only the last matters, and the two kinds commute. -/
def Obligations.LastSetterWins : Prop :=
  ∀ (s u v u' v' : State) (d d' : Word) (m m' : Method),
    s.configured = true →
    (exec (.setdur d) s = .next u → exec (.setdur d') u = .next v →
      v = { s with dur := d', rspValid := true, rspCode := .ok, responses := s.responses ++ [.ok, .ok] })
    ∧ (exec (.setmeth m) s = .next u → exec (.setmeth m') u = .next v →
      v = { s with method := m', rspValid := true, rspCode := .ok, responses := s.responses ++ [.ok, .ok] })
    ∧ (exec (.setdur d) s = .next u → exec (.setmeth m) u = .next v →
       exec (.setmeth m) s = .next u' → exec (.setdur d) u' = .next v' → v = v')

/-- R133: INIT on a constructed block, and any other command on an unconstructed one, end with NotPermitted
whatever their operands (R139: before ConfigurationError and RangeError), and no other register changes. -/
def Obligations.LifecycleRefusesCommands : Prop :=
  ∀ (s : State) (p : Quad PinId) (d : Word) (m : Method) (n : Int),
    (s.st = .idle → exec (.init p d m) s = .next (errorReported s .notPermitted))
    ∧ (s.st = .unconf →
        ∀ i ∈ [Instr.step n, .qrot n, .hrot n, .frot n, .arot n, .setdur d, .setmeth m],
          exec i s = .next (errorReported s .notPermitted))

/-- R140: error entry sets its own flag and no other, undoes a failed construction, ends an aborted sequence in
idle, leaves the sequencer alone otherwise, and gives the response; nothing else changes. -/
def Obligations.ErrorEntryIsComplete : Prop :=
  ∀ (s : State) (e : Error),
    (∀ e', errGet (s.raise e).err e' = (errGet s.err e' || decide (e' = e)))
    ∧ s.raise e =
      { s with
        err := (s.raise e).err
        st := if s.st = .cfg then .unconf
              else if s.st = .pat ∨ s.st = .holdStart ∨ s.st = .holdWait ∨ s.st = .off then .idle
              else s.st
        rspValid := true
        rspCode := .error e
        responses := s.responses ++ [.error e] }

/-! ### The transitions of a command in progress -/

/-- R85: in `S_PAT` one pattern level is written, of phase `IDX mod 8`, then the next pin follows, or the
hold after the fourth; a failed write ends the command. -/
def Obligations.PatternWriteTransition : Prop :=
  ∀ s : State,
    s.st = .pat → s.inputs.rstN = true →
    (s.inputs.ioErr = false →
      step s = .next
        { s with
          pinLvl := s.pinLvl.set s.sub ((romRead s.config.seqRom s.method (phaseOfIndex s.idx.toNat)).get s.sub)
          trace := s.trace ++
            [.wr (s.pinId.get s.sub)
              ((romRead s.config.seqRom s.method (phaseOfIndex s.idx.toNat)).get s.sub) .ok]
          sub := if s.sub.val < 3 then s.sub + 1 else s.sub
          st := if s.sub.val < 3 then .pat else .holdStart
          rspValid := false
          script := s.script.tail
          cycle := s.cycle + 1 })
    ∧ (s.inputs.ioErr = true →
        step s = .next { operationFailed s (.writeLevel (s.pinId.get s.sub)
            ((romRead s.config.seqRom s.method (phaseOfIndex s.idx.toNat)).get s.sub)) with
          script := s.script.tail, cycle := s.cycle + 1 })

/-- R89: the hold is issued once with the duration in `DUR`; the timer then counts ticks down to zero, one a
tick, waits without one, and at zero goes on to the LOW writes without counting a tick. -/
def Obligations.HoldTransitions : Prop :=
  ∀ s : State,
    s.inputs.rstN = true →
    (s.st = .holdStart → s.inputs.ioErr = false →
      step s = .next { s with tmr := s.dur, st := .holdWait, trace := s.trace ++ [.hold s.dur .ok],
                              rspValid := false, script := s.script.tail, cycle := s.cycle + 1 })
    ∧ (s.st = .holdStart → s.inputs.ioErr = true →
      step s = .next { operationFailed s (.hold s.dur) with script := s.script.tail, cycle := s.cycle + 1 })
    ∧ (s.st = .holdWait → s.tmr = 0 →
      step s = .next { s with sub := 0, st := .off, rspValid := false, script := s.script.tail,
                              cycle := s.cycle + 1 })
    ∧ (s.st = .holdWait → s.tmr ≠ 0 → s.inputs.tick = true →
      step s = .next { s with tmr := s.tmr - 1, rspValid := false, script := s.script.tail,
                              cycle := s.cycle + 1 })
    ∧ (s.st = .holdWait → s.tmr ≠ 0 → s.inputs.tick = false →
      step s = .next { s with rspValid := false, script := s.script.tail, cycle := s.cycle + 1 })

/-- R87, R88: in `S_OFF` one pin is written LOW; after the fourth the index moves by one, and the sequence ends
with the response OK when it reaches 0 (descending) or `LIMIT` (ascending). A failed write ends the command. -/
def Obligations.DeenergizeTransition : Prop :=
  ∀ s : State,
    s.st = .off → s.inputs.rstN = true →
    (s.inputs.ioErr = false → s.sub.val < 3 →
      step s = .next { s with pinLvl := s.pinLvl.set s.sub .low
                              trace := s.trace ++ [.wr (s.pinId.get s.sub) .low .ok]
                              sub := s.sub + 1
                              rspValid := false
                              script := s.script.tail
                              cycle := s.cycle + 1 })
    ∧ (s.inputs.ioErr = false → s.sub = 3 → ∀ j : Word,
        (s.dir = .descending → j = s.idx - 1) → (s.dir = .ascending → j = s.idx + 1) →
        step s = .next
          (if (s.dir = .descending ∧ j = 0) ∨ (s.dir = .ascending ∧ j = s.limit) then
            { s with pinLvl := s.pinLvl.set 3 .low
                     trace := s.trace ++ [.wr s.pinId.d .low .ok]
                     idx := j
                     st := .idle
                     rspValid := true
                     rspCode := .ok
                     responses := s.responses ++ [.ok]
                     script := s.script.tail
                     cycle := s.cycle + 1 }
          else
            { s with pinLvl := s.pinLvl.set 3 .low
                     trace := s.trace ++ [.wr s.pinId.d .low .ok]
                     idx := j
                     sub := 0
                     st := .pat
                     rspValid := false
                     script := s.script.tail
                     cycle := s.cycle + 1 }))
    ∧ (s.inputs.ioErr = true →
        step s = .next { operationFailed s (.writeLevel (s.pinId.get s.sub) .low) with
          script := s.script.tail, cycle := s.cycle + 1 })

/-- R116: in `S_CFG` one pin is configured, its level untouched; after the fourth INIT ends with OK. A failed
operation leaves the block unconstructed (R118). -/
def Obligations.ConfigureTransition : Prop :=
  ∀ s : State,
    s.st = .cfg → s.inputs.rstN = true →
    (s.inputs.ioErr = false →
      step s = .next
        { s with
          pinOe := s.pinOe.set s.sub true
          trace := s.trace ++ [.cfg (s.pinId.get s.sub) .ok]
          sub := if s.sub.val < 3 then s.sub + 1 else s.sub
          st := if s.sub.val < 3 then .cfg else .idle
          rspValid := decide (s.sub = 3)
          rspCode := if s.sub.val < 3 then s.rspCode else .ok
          responses := if s.sub.val < 3 then s.responses else s.responses ++ [.ok]
          script := s.script.tail
          cycle := s.cycle + 1 })
    ∧ (s.inputs.ioErr = true →
        step s = .next { operationFailed s (.configureOutput (s.pinId.get s.sub)) with
          script := s.script.tail, cycle := s.cycle + 1 })

/-- R136, R140: whichever operation fails, it changes no register of the pins, the timer or the step counter;
the command ends with IoFailure, with one event and no further operation. -/
def Obligations.FailedOperationEndsTheCommand : Prop :=
  ∀ (s : State) (op : IoOp),
    s.inputs.rstN = true → s.issuedOp = some op → s.inputs.ioErr = true →
    step s = .next { operationFailed s op with script := s.script.tail, cycle := s.cycle + 1 }

/-! ### Whole commands -/

/-- R86: an elementary step from its first pattern write: nine operations, the pattern A to D, one hold, LOW on
A to D, and then the index has moved by one. With a tick in every transition it takes `DUR + 10`
transitions, the reference timing of R176, one transition a cycle (DESIGN CHOICE, notes/assumptions/1.md). -/
def Obligations.ElementaryStepIssuesNineOperations : Prop :=
  ∀ s : State,
    s.st = .pat → s.sub = 0 → QuietFor s (s.dur.toNat + 10) → TicksFor s (s.dur.toNat + 10) →
    ∃ t, runFor (s.dur.toNat + 10) s = .next t
      ∧ t.trace = s.trace ++ stepEvents s (phaseOf s.idx)
      ∧ t.pinLvl = allLow
      ∧ t.idx = (match s.dir with | .descending => s.idx - 1 | .ascending => s.idx + 1)
      ∧ (t.st = .idle ∨ t.st = .pat ∧ t.sub = 0)
      ∧ (t.st = .idle ↔ (s.dir = .descending ∧ t.idx = 0) ∨ (s.dir = .ascending ∧ t.idx = s.limit))
      ∧ t.config = s.config ∧ t.pinId = s.pinId ∧ t.method = s.method ∧ t.dur = s.dur ∧ t.dir = s.dir
      ∧ t.limit = s.limit ∧ t.pinOe = s.pinOe ∧ t.err = s.err
      ∧ t.responses = s.responses ++ (if t.st = .idle then [.ok] else [])

/-- R90, R91, R92, R175: STEP with a nonzero count on an idle constructed block, with a platform that never fails
and a tick in every transition, runs to its end: it emits exactly the nine events of each index of the stream,
leaves all pins LOW and the configuration as it was, and gives one response, OK. That it takes
`abs(count) * (DUR + 10)` transitions is the reference timing of R176, one transition a cycle, which no rule
depends on: the model's choice (DESIGN CHOICE, notes/assumptions/1.md). -/
def Obligations.StepRunsToCompletion : Prop :=
  ∀ (s : State) (count : Int) (n : Nat),
    s.st = .idle → fitsS32 count = true → count ≠ 0 →
    n = count.natAbs * (s.dur.toNat + 10) → QuietFor s n → TicksFor s n →
    ∃ u t, exec (.step count) s = .next u ∧ runFor n u = .next t
      ∧ t.trace = s.trace ++ sequenceTrace s count
      ∧ t.st = .idle ∧ t.pinLvl = allLow
      ∧ t.config = s.config ∧ t.pinId = s.pinId ∧ t.method = s.method ∧ t.dur = s.dur
      ∧ t.pinOe = s.pinOe ∧ t.err = s.err
      ∧ t.rspValid = true ∧ t.rspCode = .ok ∧ t.responses = s.responses ++ [.ok]

/-- R90 for any arrival of ticks, one transition at a time: while a command is in progress and nothing fails,
what has been emitted together with what is still to be emitted stays the same list. -/
def Obligations.EmittedAndRemainingEventsAreConserved : Prop :=
  ∀ s t : State,
    Inv s → s.busy = true → s.inputs.rstN = true → s.inputs.ioErr = false → step s = .next t →
    t.trace ++ remainingEvents t = s.trace ++ remainingEvents s

/-- R90, R116, for any arrival of ticks: a command in progress whose operations are all answered `ok` has, at the
transition that ends it, emitted exactly the events it had still to emit, and responds OK. -/
def Obligations.QuietCommandEmitsItsTrace : Prop :=
  ∀ (n : Nat) (s t : State),
    Inv s → QuietFor s n → runFor n s = .next t → t.busy = false →
    (∀ m, m < n → ∀ v, runFor m s = .next v → v.busy = true) → 0 < n →
    t.trace = s.trace ++ remainingEvents s ∧ t.rspValid = true ∧ t.rspCode = .ok

/-- R90: at its start a step sequence has still to emit the trace of its whole index stream. -/
def Obligations.SequenceStartsWithItsWholeTrace : Prop :=
  ∀ (s : State) (count : Int),
    s.st = .idle → fitsS32 count = true →
    remainingEvents (sequenceStarted s count) = sequenceTrace s count
    ∧ remainingTime (sequenceStarted s count) = count.natAbs * s.dur.toNat

/-- R91: the time units: each transition that counts a tick takes one off what the command has still to wait
for, and no other transition does. -/
def Obligations.TimeUnitsAreConserved : Prop :=
  ∀ s t : State,
    Inv s → s.busy = true → s.inputs.rstN = true → s.inputs.ioErr = false → step s = .next t →
    remainingTime t + timeCounted s = remainingTime s

/-- R91: a successful sequence emits eight writes and one hold of `DUR` for each elementary step, and nothing
else. -/
def Obligations.EightWritesAndOneHoldPerStep : Prop :=
  ∀ (s : State) (count : Int),
    ((sequenceTrace s count).filter isWrite).length = 8 * count.natAbs
    ∧ ((sequenceTrace s count).filter isHold) = List.replicate count.natAbs (.hold s.dur .ok)
    ∧ (sequenceTrace s count).length = 9 * count.natAbs

/-- R84, R93: the index streams: `count` down to 1 for a positive count, 0 up to `|count| - 1` for a negative
one; a positive stream ends on phase 1, a negative one starts on phase 0, and phase 0 comes up in a positive
stream exactly when the count is at least 8. -/
def Obligations.IndexStreams : Prop :=
  ∀ count : Int,
    (indexStream count).length = count.natAbs
    ∧ (0 < count → ∀ j, j < count.natAbs → (indexStream count)[j]? = some (count.natAbs - j))
    ∧ (count < 0 → ∀ j, j < count.natAbs → (indexStream count)[j]? = some j)
    ∧ (0 < count → ((indexStream count).map phaseOfIndex).getLast? = some 1)
    ∧ (count < 0 → ((indexStream count).map phaseOfIndex).head? = some 0)
    ∧ (0 < count → (0 ∈ (indexStream count).map phaseOfIndex ↔ 8 ≤ count))

/-- R168: without ticks a hold of nonzero length never ends: the block stays in `S_HOLD_WAIT`, busy, its pins and
timer as they are. -/
def Obligations.TickStarvationHoldsTheBlock : Prop :=
  ∀ (n : Nat) (s : State),
    s.st = .holdWait → s.tmr ≠ 0 →
    (∀ m, m < n → (s.inputsAt m).rstN = true ∧ (s.inputsAt m).tick = false) →
    ∃ t, runFor n s = .next t ∧ t.st = .holdWait ∧ t.busy = true ∧ t.tmr = s.tmr ∧ t.pinLvl = s.pinLvl
      ∧ t.trace = s.trace ∧ t.responses = s.responses

/-! ### Rules over every step -/

/-- R68, R131, R168: the machine never stops: every state has a next one, whatever the inputs. -/
def Obligations.EveryStepAnswersNext : Prop :=
  ∀ s : State, ∃ t, step s = .next t

/-- R26, R160, R161: reset from any state, also in the middle of a command: the registers with a reset value have
it, nothing is emitted and no response is given; while `rst_n = 0` every output is inactive. That the
transition takes no operation with it, and that the responses given before stay, are the model's choices
(DESIGN CHOICE, notes/assumptions/6.md and 16.md). -/
def Obligations.ResetStopsEverything : Prop :=
  ∀ s : State, s.inputs.rstN = false →
    (∃ t, step s = .next t ∧ t.st = .unconf ∧ t.pinOe = ⟨false, false, false, false⟩ ∧ t.pinLvl = allLow
      ∧ t.err = ⟨false, false, false, false, false⟩ ∧ t.rspValid = false ∧ t.rspCode = .ok
      ∧ t.configured = false ∧ t.issuedOp = none
      ∧ t.trace = s.trace ∧ t.responses = s.responses ∧ t.config = s.config)
    ∧ s.outputs.cmdReady = false ∧ s.outputs.rspValid = false ∧ s.outputs.rspCode = 0
    ∧ s.outputs.io.valid = false ∧ s.outputs.io.level = false ∧ s.outputs.io.dur = 0
    ∧ s.outputs.busy = false ∧ s.outputs.configured = false ∧ s.outputs.errSticky = 0
    ∧ s.outputs.pinOe = 0 ∧ s.outputs.pinOut = 0

/-- R26: what the spec gives for reset: unconstructed, no pin driven, all levels LOW, no error, no response and
no operation. -/
def Obligations.ResetValuesOfTheSpec : Prop :=
  State.reset.st = .unconf ∧ State.reset.pinOe = ⟨false, false, false, false⟩ ∧ State.reset.pinLvl = allLow
  ∧ errBits State.reset.err = 0 ∧ State.reset.rspValid = false ∧ completionCode State.reset.rspCode = 0
  ∧ State.reset.issuedOp = none ∧ State.reset.busy = false

/-- R43, R44, R45: the default ROM meets every constraint the document puts on its contents, and reads as the
table of R44 at the physical addresses of R45; the addresses with `m = 3` hold nothing. Phases 1 to 7 of the
default are the spec's own choice (92 D7; notes/assumptions/4.md). -/
def Obligations.DefaultRomMeetsItsConstraints : Prop :=
  romAdmissible State.reset.config.seqRom = true
  ∧ (List.range 8).map (fun p => romWord State.reset.config.seqRom (BitVec.ofNat 5 p))
      = [some 8, some 4, some 2, some 1, some 8, some 4, some 2, some 1]
  ∧ (List.range 8).map (fun p => romWord State.reset.config.seqRom (BitVec.ofNat 5 (8 + p)))
      = [some 8, some 4, some 2, some 1, some 8, some 4, some 2, some 1]
  ∧ (List.range 8).map (fun p => romWord State.reset.config.seqRom (BitVec.ofNat 5 (16 + p)))
      = [some 8, some 12, some 4, some 6, some 2, some 3, some 1, some 9]
  ∧ ∀ p, p < 8 → romWord State.reset.config.seqRom (BitVec.ofNat 5 (24 + p)) = none

/-- The invariant holds at reset, with the reset values the model chose for the registers R26 leaves
unspecified (notes/assumptions/3.md). -/
def Obligations.InvariantHoldsAtReset : Prop := Inv State.reset

/-- R15, R17, R85, R87, R89, R117, R141, R165: every step keeps the invariant, under every input: the index stays
in its range, the timer below the duration, the pins at the pattern written so far, and no response comes from a
busy block. -/
def Obligations.StepKeepsInvariant : Prop :=
  ∀ s t : State, Inv s → step s = .next t → Inv t

/-- R26: no rule reads a register that it calls unspecified before it is written: two states that differ only in
registers dead in their `ST` step to states that again differ only so, with the same outputs. Therefore no
behaviour depends on the values the model names for them at reset. -/
def Obligations.UnwrittenRegistersAreNeverRead : Prop :=
  ∀ s s' t t' : State,
    s.live = s'.live → step s = .next t → step s' = .next t' →
    t.live = t'.live ∧ s.outputs = s'.outputs

/-- R146: each input has one use: the command port counts only when the block is ready, `tick` only in
`S_HOLD_WAIT`, `io_err` only where an operation is issued. -/
def Obligations.InputsCountOnlyWhereTheyAreUsed : Prop :=
  ∀ (s : State) (i j : Inputs) (rest : List Inputs),
    i.rstN = j.rstN →
    (s.busy = false → i.cmdValid = j.cmdValid ∧ i.cmdWord = j.cmdWord) →
    (s.st = .holdWait → i.tick = j.tick) →
    (s.issuedOp.isSome = true → i.ioErr = j.ioErr) →
    step { s with script := i :: rest } = step { s with script := j :: rest }

/-- R11, R109, R124: once the block is constructed no transition but reset changes `PINID`; `METHOD` changes only
when SETMETH is accepted and `DUR` only when SETDUR is. -/
def Obligations.ConfigurationChangesOnlyByItsCommands : Prop :=
  ∀ s t : State,
    s.configured = true → s.inputs.rstN = true → step s = .next t →
    t.pinId = s.pinId ∧ t.pinOe = s.pinOe
    ∧ (t.method ≠ s.method →
        s.st = .idle ∧ s.inputs.cmdValid = true ∧ decode s.inputs.cmdWord = .ok (.setmeth t.method))
    ∧ (t.dur ≠ s.dur →
        s.st = .idle ∧ s.inputs.cmdValid = true ∧ decode s.inputs.cmdWord = .ok (.setdur t.dur))

/-- R14: `configured` is 1 exactly in the five states after construction; it is 0 after reset; outside reset it never
returns to 0, and it becomes 1 only when INIT's last operation succeeds and INIT responds OK. -/
def Obligations.LifecycleOfTheDriver : Prop :=
  (∀ s : State, s.configured = true ↔
    s.st = .idle ∨ s.st = .pat ∨ s.st = .holdStart ∨ s.st = .holdWait ∨ s.st = .off)
  ∧ State.reset.configured = false
  ∧ ∀ s t : State, step s = .next t →
    (s.inputs.rstN = false → t.configured = false)
    ∧ (s.inputs.rstN = true → s.configured = true → t.configured = true)
    ∧ (s.inputs.rstN = true → s.configured = false → t.configured = true →
        s.st = .cfg ∧ s.sub = 3 ∧ t.st = .idle ∧ t.rspValid = true ∧ t.rspCode = .ok)

/-- R19: a flag is set when a command completes with its code and by nothing else, and stays set until reset,
which clears all five. -/
def Obligations.ErrorFlagsAreSticky : Prop :=
  ∀ s t : State, step s = .next t →
    (s.inputs.rstN = true → ∀ e, errGet t.err e =
      (errGet s.err e || (t.rspValid && decide (t.rspCode = .error e))))
    ∧ (s.inputs.rstN = false → ∀ e, errGet t.err e = false)

/-- R8, R53: the trace and the operation port agree: outside reset a transition emits exactly the event of the
operation the block issues in it, with the platform's answer, and none where it issues none; an operation is
issued exactly in `S_CFG`, `S_PAT`, `S_HOLD_START` and `S_OFF` (read from R85, R87, R89 and R116: DEDUCED,
notes/assumptions/8.md). That a transition in reset leaves the trace alone, also where an operation was on the
port, is R160's "Reset emits no event" at the granularity of a transition, the model's choice (DESIGN CHOICE,
notes/assumptions/6.md). -/
def Obligations.TraceFollowsTheOperationPort : Prop :=
  ∀ s t : State, step s = .next t →
    (s.inputs.rstN = true →
      t.trace = s.trace ++ s.issuedOp.toList.map (fun op => eventOf op (answerOf s.inputs.ioErr)))
    ∧ (s.inputs.rstN = false → t.trace = s.trace)
    ∧ (s.issuedOp.isSome = true ↔ s.st = .cfg ∨ s.st = .pat ∨ s.st = .holdStart ∨ s.st = .off)

/-- R141: one response for each accepted command: a response is recorded exactly when `rsp_valid` is 1; the block
is then ready again; an accepted command either responds at once or makes the block busy; a busy block that gives
no response stays busy; and nothing else responds. -/
def Obligations.OneResponseForEachCommand : Prop :=
  ∀ s t : State, s.inputs.rstN = true → step s = .next t →
    t.responses = s.responses ++ (if t.rspValid then [t.rspCode] else [])
    ∧ (t.rspValid = true → t.busy = false ∧ t.issuedOp = none)
    ∧ (s.busy = false → s.inputs.cmdValid = true → t.busy = !t.rspValid)
    ∧ (s.busy = false → s.inputs.cmdValid = false → t.busy = false ∧ t.rspValid = false)
    ∧ (s.busy = true → t.busy = !t.rspValid)

/-- R43 constraint 8, R55, R179: no step writes the sequence ROM or the other parameters. -/
def Obligations.ParametersNeverChange : Prop :=
  ∀ s t : State, step s = .next t → t.config = s.config

/-- R47, R51: outside reset a transition changes at most one pin, and only by a successful write that it
emits. -/
def Obligations.PinLevelsChangeOnlyByWrites : Prop :=
  ∀ s t : State, s.inputs.rstN = true → step s = .next t →
    t.pinLvl = s.pinLvl
    ∨ ∃ (k : PinPos) (v : Level),
        t.pinLvl = s.pinLvl.set k v ∧ t.trace = s.trace ++ [.wr (s.pinId.get k) v .ok]

/-- R92, R173: when a step sequence ends with OK, all four pins are LOW. -/
def Obligations.PinsAreLowAfterSuccess : Prop :=
  ∀ s t : State,
    Inv s → s.inSequence = true → s.inputs.rstN = true → step s = .next t → t.busy = false → t.rspCode = .ok →
    t.pinLvl = allLow

/-- R172: when an elementary step begins with all pins LOW, every partial pattern has HIGH only where the final
pattern has: the property is kept from transition to transition, and a sequence started with all pins LOW
has it. -/
def Obligations.PartialPatternsStayWithinThePattern : Prop :=
  (∀ s t : State, Inv s → s.busy = true → WithinPattern s → step s = .next t → WithinPattern t)
  ∧ ∀ (s : State) (count : Int), s.pinLvl = allLow → WithinPattern (sequenceStarted s count)

/-- R43 constraint 3, R122: with a ROM that meets the document's constraints, a block in WAVE_DRIVE and one in
FULL_STEP that are equal otherwise stay so under every input: no event, response or pin differs. -/
def Obligations.FullResolutionMethodsAreIndistinguishable : Prop :=
  ∀ s t s' : State,
    romAdmissible s.config.seqRom = true → EqualUpToFullResolution s t → step s = .next s' →
    ∃ t', step t = .next t' ∧ EqualUpToFullResolution s' t'

/-! ### The end of a run -/

/-- R178: when a run has ended nothing continues: the block is not busy, `ST` is `S_UNCONF` or `S_IDLE` and no
operation is issued; each command of the run has had one response, `ERR` holds exactly the errors among them, and
the run has ended cleanly exactly when every one of them is OK. What makes a run is the model's reading
(notes/assumptions/17.md). -/
def Obligations.RunEndLeavesNothingRunning : Prop :=
  ∀ (words : List CommandWord) (n : Nat) (s t : State),
    RunEnded words n s t →
    t.busy = false ∧ (t.st = .unconf ∨ t.st = .idle) ∧ t.issuedOp = none ∧ t.outputs.io.valid = false
    ∧ ∃ given : List Completion,
        t.responses = s.responses ++ given ∧ given.length = words.length
        ∧ (∀ e, errGet t.err e = true ↔ .error e ∈ given)
        ∧ (RunEndedCleanly words n s t ↔ ∀ c ∈ given, c = .ok)

/-- R160, R161, R178: a command that reset abandons never ends. Let the block be busy with it in every state up to
the `m`-th, `u`, and `rst_n` be 0 in the transition from there, to `v`. From `v` on, further resets or none, until
another word is accepted, the responses stay those from before the command and `rsp_valid` stays 0, the block is
unconstructed and idle, and no operation is issued; so no number of transitions sees the command's response. That
the transition in reset emits nothing, whatever operation was on the port, is the model's choice (DESIGN
CHOICE, notes/assumptions/6.md). -/
def Obligations.AbandonedCommandNeverEnds : Prop :=
  ∀ (m : Nat) (s u v : State),
    s.accepting = true → 0 < m →
    (∀ j, 0 < j → j ≤ m → ∃ w, runFor j s = .next w ∧ w.busy = true) →
    runFor m s = .next u → u.inputs.rstN = false → step u = .next v →
    (∀ (k : Nat) (t : State), acceptedWords k v = [] → runFor k v = .next t →
      t.responses = s.responses ∧ t.rspValid = false ∧ t.st = .unconf ∧ t.busy = false ∧ t.issuedOp = none
        ∧ t.trace = u.trace)
    ∧ ∀ n, ¬ CommandEnded n s
end

