-- ==== Sys2Proof/Laws/Decode.lean ====
section
/-! SUPPORT. The fields of a packed command word, and a word as the packing of its fields: what proofs about
the decoder and the encoder cite instead of unfolding bit slices. -/

namespace Sys2Proof

section Fields

variable (op : BitVec 4) (meth rsv : BitVec 2) (hi lo : Word)

/-- Bit `i` of a packed word, field by field. -/
theorem getLsbD_packWord (i : Nat) :
    (packWord op meth rsv hi lo).getLsbD i =
      if i < 32 then lo.getLsbD i
      else if i < 64 then hi.getLsbD (i - 32)
      else if i < 66 then rsv.getLsbD (i - 64)
      else if i < 68 then meth.getLsbD (i - 66)
      else op.getLsbD (i - 68) := by
  unfold packWord
  simp only [BitVec.getLsbD_append, Nat.sub_sub]
  repeat' split
  all_goals first | rfl | omega

@[simp] theorem opField_packWord : opField (packWord op meth rsv hi lo) = op := by
  apply BitVec.eq_of_getLsbD_eq
  intro i hi
  simp only [opField, BitVec.getLsbD_extractLsb', getLsbD_packWord]
  rw [if_neg (by omega), if_neg (by omega), if_neg (by omega), if_neg (by omega)]
  simp [hi]

@[simp] theorem methField_packWord : methField (packWord op meth rsv hi lo) = meth := by
  apply BitVec.eq_of_getLsbD_eq
  intro i hi
  simp only [methField, BitVec.getLsbD_extractLsb', getLsbD_packWord]
  rw [if_neg (by omega), if_neg (by omega), if_neg (by omega), if_pos (by omega)]
  simp [hi]

@[simp] theorem rsvField_packWord : rsvField (packWord op meth rsv hi lo) = rsv := by
  apply BitVec.eq_of_getLsbD_eq
  intro i hi
  simp only [rsvField, BitVec.getLsbD_extractLsb', getLsbD_packWord]
  rw [if_neg (by omega), if_neg (by omega), if_pos (by omega)]
  simp [hi]

@[simp] theorem hiField_packWord : hiField (packWord op meth rsv hi lo) = hi := by
  apply BitVec.eq_of_getLsbD_eq
  intro i hi
  simp only [hiField, BitVec.getLsbD_extractLsb', getLsbD_packWord]
  rw [if_neg (by omega), if_pos (by omega)]
  simp [hi]

@[simp] theorem loField_packWord : loField (packWord op meth rsv hi lo) = lo := by
  apply BitVec.eq_of_getLsbD_eq
  intro i hi
  simp only [loField, BitVec.getLsbD_extractLsb', getLsbD_packWord]
  rw [if_pos (by omega)]
  simp [hi]

end Fields

/-- A word is the packing of its five fields (R60: the fields cover the word). -/
theorem packWord_fields (w : CommandWord) :
    packWord (opField w) (methField w) (rsvField w) (hiField w) (loField w) = w := by
  apply BitVec.eq_of_getLsbD_eq
  intro i hi
  simp only [getLsbD_packWord, opField, methField, rsvField, hiField, loField, BitVec.getLsbD_extractLsb']
  repeat' split
  all_goals
    rename_i h
    try rw [show decide _ = true from decide_eq_true (by omega)]
    simp only [Bool.true_and]
    congr 1
    omega

/-- Two words with equal fields are equal. -/
theorem word_ext {v w : CommandWord} (ho : opField v = opField w) (hm : methField v = methField w)
    (hr : rsvField v = rsvField w) (hh : hiField v = hiField w) (hl : loField v = loField w) : v = w := by
  rw [← packWord_fields v, ← packWord_fields w, ho, hm, hr, hh, hl]

/-- A masked word equals a pattern exactly when each of its masked fields does (R62). -/
theorem and_eq_iff_fields (w mask val : CommandWord) :
    w &&& mask = val ↔
      opField w &&& opField mask = opField val ∧ methField w &&& methField mask = methField val
      ∧ rsvField w &&& rsvField mask = rsvField val ∧ hiField w &&& hiField mask = hiField val
      ∧ loField w &&& loField mask = loField val := by
  constructor
  · rintro rfl
    simp [opField, methField, rsvField, hiField, loField, BitVec.extractLsb'_and]
  · rintro ⟨ho, hm, hr, hh, hl⟩
    apply word_ext <;>
      simp only [opField, methField, rsvField, hiField, loField, BitVec.extractLsb'_and] at * <;> assumption

@[simp] theorem methodOfCode_methodCode (m : Method) : methodOfCode (methodCode m) = some m := by
  cases m <;> decide

/-- The code of the method a code names is that code (R66). -/
theorem methodCode_of_methodOfCode {c : BitVec 2} {m : Method} (h : methodOfCode c = some m) :
    methodCode m = c := by
  unfold methodOfCode at h
  split at h
  · cases h; simp_all [methodCode]
  · split at h
    · cases h; simp_all [methodCode]
    · split at h
      · cases h; simp_all [methodCode]
      · cases h

/-- Exactly the code 3 names no method (R66). -/
theorem methodOfCode_eq_none (c : BitVec 2) : methodOfCode c = none ↔ c = 3 := by
  revert c; decide

@[simp] theorem pinsOfWord_wordOfPins (p : Quad PinId) : pinsOfWord (wordOfPins p) = p := by
  cases p
  simp only [pinsOfWord, wordOfPins, Quad.mk.injEq]
  refine ⟨?_, ?_, ?_, ?_⟩ <;>
  · apply BitVec.eq_of_getLsbD_eq
    intro i hi
    simp only [BitVec.getLsbD_extractLsb', BitVec.getLsbD_append]
    repeat' split
    all_goals first | omega | (simp [hi]; done) | (simp only [hi, decide_true, Bool.true_and]; congr 1; omega)

@[simp] theorem wordOfPins_pinsOfWord (lo : Word) : wordOfPins (pinsOfWord lo) = lo := by
  apply BitVec.eq_of_getLsbD_eq
  intro i hi
  simp only [pinsOfWord, wordOfPins, BitVec.getLsbD_append, BitVec.getLsbD_extractLsb']
  repeat' split
  all_goals
    rw [show decide _ = true from decide_eq_true (by omega)]
    simp only [Bool.true_and]
    congr 1
    omega

/-- A 32-bit field reads as an integer in the signed range (R64). -/
theorem fitsS32_toInt (lo : Word) : fitsS32 lo.toInt = true := by
  have h1 := BitVec.le_toInt lo
  have h2 := BitVec.toInt_lt (x := lo)
  simp only [fitsS32, Bool.and_eq_true, decide_eq_true_eq]
  omega

/-- An integer in the signed range is what its two's complement field reads as (R5, R64). -/
theorem toInt_ofInt_of_fits {n : Int} (h : fitsS32 n = true) : (BitVec.ofInt 32 n).toInt = n := by
  simp only [fitsS32, Bool.and_eq_true, decide_eq_true_eq] at h
  rw [BitVec.toInt_ofInt]
  apply Int.bmod_eq_of_le <;> omega

/-- A nonzero reserved field is rejected first (R68). -/
theorem decode_reserved {w : CommandWord} (h : rsvField w ≠ 0) : decode w = .error .reservedField := by
  unfold decode
  rw [if_pos h]

/-- What a format A word decodes to: its unused fields are zero and its operand is `lo` (R61, R65). -/
theorem decodeArgument_eq_ok {w : CommandWord} {mk : Word → Instr} {i : Instr} :
    decodeArgument w mk = .ok i ↔ methField w = 0 ∧ hiField w = 0 ∧ mk (loField w) = i := by
  unfold decodeArgument
  split
  · rename_i h
    constructor
    · intro h'; cases h'
    · rintro ⟨hm, hh, -⟩; exact absurd h (by simp [hm, hh])
  · rename_i h
    simp only [not_or, not_not] at h
    simp [h.1, h.2]

end Sys2Proof
end

