-- ==== Sys2Proof/Laws/Pins.lean ====
section
/-! SUPPORT. Reading a group of four pins after a write of one of them. -/

namespace Sys2Proof

variable {α : Type} (q : Quad α)

@[simp] theorem Quad.get_set_same (k : PinPos) (v : α) : (q.set k v).get k = v := by
  fin_cases k <;> rfl

theorem Quad.get_set_other {k j : PinPos} (h : j ≠ k) (v : α) : (q.set k v).get j = q.get j := by
  fin_cases k <;> fin_cases j <;> first | rfl | exact absurd rfl h

theorem Quad.get_set (k j : PinPos) (v : α) : (q.set k v).get j = if j = k then v else q.get j := by
  by_cases h : j = k
  · subst h; simp
  · simp [h, Quad.get_set_other q h]

/-- Two groups with the same value at every pin are equal. -/
theorem Quad.ext_get {q r : Quad α} (h : ∀ k : PinPos, q.get k = r.get k) : q = r := by
  cases q; cases r
  have h0 := h 0
  have h1 := h 1
  have h2 := h 2
  have h3 := h 3
  simp only [Quad.get] at h0 h1 h2 h3
  subst h0 h1 h2 h3; rfl

/-- The pin position after `k`, where there is one. -/
theorem PinPos.val_succ {k : PinPos} (h : k.val < 3) : (k + 1).val = k.val + 1 := by
  fin_cases k <;> first | rfl | exact absurd h (by decide)

/-- The last pin position is D. -/
theorem PinPos.eq_last {k : PinPos} (h : ¬ k.val < 3) : k = 3 := by
  fin_cases k <;> first | rfl | exact absurd (by decide) h

end Sys2Proof
end

