-- ==== Sys2Proof/Laws/State.lean ====
section
/-! SUPPORT. What each named update of the state leaves in each field, true by rfl, so that no proof unfolds a
record update. -/

namespace Sys2Proof.Machine

variable (s : State)

@[simp] theorem State.respond_config (c : Completion) : (s.respond c).config = s.config := rfl
@[simp] theorem State.respond_st (c : Completion) : (s.respond c).st = s.st := rfl
@[simp] theorem State.respond_pinId (c : Completion) : (s.respond c).pinId = s.pinId := rfl
@[simp] theorem State.respond_method (c : Completion) : (s.respond c).method = s.method := rfl
@[simp] theorem State.respond_dur (c : Completion) : (s.respond c).dur = s.dur := rfl
@[simp] theorem State.respond_dir (c : Completion) : (s.respond c).dir = s.dir := rfl
@[simp] theorem State.respond_idx (c : Completion) : (s.respond c).idx = s.idx := rfl
@[simp] theorem State.respond_limit (c : Completion) : (s.respond c).limit = s.limit := rfl
@[simp] theorem State.respond_sub (c : Completion) : (s.respond c).sub = s.sub := rfl
@[simp] theorem State.respond_tmr (c : Completion) : (s.respond c).tmr = s.tmr := rfl
@[simp] theorem State.respond_pinLvl (c : Completion) : (s.respond c).pinLvl = s.pinLvl := rfl
@[simp] theorem State.respond_pinOe (c : Completion) : (s.respond c).pinOe = s.pinOe := rfl
@[simp] theorem State.respond_err (c : Completion) : (s.respond c).err = s.err := rfl
@[simp] theorem State.respond_rspValid (c : Completion) : (s.respond c).rspValid = true := rfl
@[simp] theorem State.respond_rspCode (c : Completion) : (s.respond c).rspCode = c := rfl
@[simp] theorem State.respond_trace (c : Completion) : (s.respond c).trace = s.trace := rfl
@[simp] theorem State.respond_responses (c : Completion) : (s.respond c).responses = s.responses ++ [c] := rfl
@[simp] theorem State.respond_script (c : Completion) : (s.respond c).script = s.script := rfl
@[simp] theorem State.respond_cycle (c : Completion) : (s.respond c).cycle = s.cycle := rfl

@[simp] theorem State.raise_config (e : Error) : (s.raise e).config = s.config := rfl
@[simp] theorem State.raise_st (e : Error) : (s.raise e).st = stateAfterError s.st := rfl
@[simp] theorem State.raise_pinId (e : Error) : (s.raise e).pinId = s.pinId := rfl
@[simp] theorem State.raise_method (e : Error) : (s.raise e).method = s.method := rfl
@[simp] theorem State.raise_dur (e : Error) : (s.raise e).dur = s.dur := rfl
@[simp] theorem State.raise_dir (e : Error) : (s.raise e).dir = s.dir := rfl
@[simp] theorem State.raise_idx (e : Error) : (s.raise e).idx = s.idx := rfl
@[simp] theorem State.raise_limit (e : Error) : (s.raise e).limit = s.limit := rfl
@[simp] theorem State.raise_sub (e : Error) : (s.raise e).sub = s.sub := rfl
@[simp] theorem State.raise_tmr (e : Error) : (s.raise e).tmr = s.tmr := rfl
@[simp] theorem State.raise_pinLvl (e : Error) : (s.raise e).pinLvl = s.pinLvl := rfl
@[simp] theorem State.raise_pinOe (e : Error) : (s.raise e).pinOe = s.pinOe := rfl
@[simp] theorem State.raise_err (e : Error) : (s.raise e).err = errSet s.err e := rfl
@[simp] theorem State.raise_rspValid (e : Error) : (s.raise e).rspValid = true := rfl
@[simp] theorem State.raise_rspCode (e : Error) : (s.raise e).rspCode = .error e := rfl
@[simp] theorem State.raise_trace (e : Error) : (s.raise e).trace = s.trace := rfl
@[simp] theorem State.raise_responses (e : Error) : (s.raise e).responses = s.responses ++ [.error e] := rfl
@[simp] theorem State.raise_script (e : Error) : (s.raise e).script = s.script := rfl
@[simp] theorem State.raise_cycle (e : Error) : (s.raise e).cycle = s.cycle := rfl

@[simp] theorem State.emit_config (v : Event) : (s.emit v).config = s.config := rfl
@[simp] theorem State.emit_st (v : Event) : (s.emit v).st = s.st := rfl
@[simp] theorem State.emit_pinId (v : Event) : (s.emit v).pinId = s.pinId := rfl
@[simp] theorem State.emit_method (v : Event) : (s.emit v).method = s.method := rfl
@[simp] theorem State.emit_dur (v : Event) : (s.emit v).dur = s.dur := rfl
@[simp] theorem State.emit_dir (v : Event) : (s.emit v).dir = s.dir := rfl
@[simp] theorem State.emit_idx (v : Event) : (s.emit v).idx = s.idx := rfl
@[simp] theorem State.emit_limit (v : Event) : (s.emit v).limit = s.limit := rfl
@[simp] theorem State.emit_sub (v : Event) : (s.emit v).sub = s.sub := rfl
@[simp] theorem State.emit_tmr (v : Event) : (s.emit v).tmr = s.tmr := rfl
@[simp] theorem State.emit_pinLvl (v : Event) : (s.emit v).pinLvl = s.pinLvl := rfl
@[simp] theorem State.emit_pinOe (v : Event) : (s.emit v).pinOe = s.pinOe := rfl
@[simp] theorem State.emit_err (v : Event) : (s.emit v).err = s.err := rfl
@[simp] theorem State.emit_rspValid (v : Event) : (s.emit v).rspValid = s.rspValid := rfl
@[simp] theorem State.emit_rspCode (v : Event) : (s.emit v).rspCode = s.rspCode := rfl
@[simp] theorem State.emit_trace (v : Event) : (s.emit v).trace = s.trace ++ [v] := rfl
@[simp] theorem State.emit_responses (v : Event) : (s.emit v).responses = s.responses := rfl
@[simp] theorem State.emit_script (v : Event) : (s.emit v).script = s.script := rfl
@[simp] theorem State.emit_cycle (v : Event) : (s.emit v).cycle = s.cycle := rfl

@[simp] theorem State.consume_config : s.consume.config = s.config := rfl
@[simp] theorem State.consume_st : s.consume.st = s.st := rfl
@[simp] theorem State.consume_pinId : s.consume.pinId = s.pinId := rfl
@[simp] theorem State.consume_method : s.consume.method = s.method := rfl
@[simp] theorem State.consume_dur : s.consume.dur = s.dur := rfl
@[simp] theorem State.consume_dir : s.consume.dir = s.dir := rfl
@[simp] theorem State.consume_idx : s.consume.idx = s.idx := rfl
@[simp] theorem State.consume_limit : s.consume.limit = s.limit := rfl
@[simp] theorem State.consume_sub : s.consume.sub = s.sub := rfl
@[simp] theorem State.consume_tmr : s.consume.tmr = s.tmr := rfl
@[simp] theorem State.consume_pinLvl : s.consume.pinLvl = s.pinLvl := rfl
@[simp] theorem State.consume_pinOe : s.consume.pinOe = s.pinOe := rfl
@[simp] theorem State.consume_err : s.consume.err = s.err := rfl
@[simp] theorem State.consume_rspValid : s.consume.rspValid = false := rfl
@[simp] theorem State.consume_rspCode : s.consume.rspCode = s.rspCode := rfl
@[simp] theorem State.consume_trace : s.consume.trace = s.trace := rfl
@[simp] theorem State.consume_responses : s.consume.responses = s.responses := rfl
@[simp] theorem State.consume_script : s.consume.script = s.script.tail := rfl
@[simp] theorem State.consume_cycle : s.consume.cycle = s.cycle + 1 := rfl

@[simp] theorem State.applyReset_config : s.applyReset.config = s.config := rfl
@[simp] theorem State.applyReset_st : s.applyReset.st = State.reset.st := rfl
@[simp] theorem State.applyReset_pinId : s.applyReset.pinId = State.reset.pinId := rfl
@[simp] theorem State.applyReset_method : s.applyReset.method = State.reset.method := rfl
@[simp] theorem State.applyReset_dur : s.applyReset.dur = State.reset.dur := rfl
@[simp] theorem State.applyReset_dir : s.applyReset.dir = State.reset.dir := rfl
@[simp] theorem State.applyReset_idx : s.applyReset.idx = State.reset.idx := rfl
@[simp] theorem State.applyReset_limit : s.applyReset.limit = State.reset.limit := rfl
@[simp] theorem State.applyReset_sub : s.applyReset.sub = State.reset.sub := rfl
@[simp] theorem State.applyReset_tmr : s.applyReset.tmr = State.reset.tmr := rfl
@[simp] theorem State.applyReset_pinLvl : s.applyReset.pinLvl = State.reset.pinLvl := rfl
@[simp] theorem State.applyReset_pinOe : s.applyReset.pinOe = State.reset.pinOe := rfl
@[simp] theorem State.applyReset_err : s.applyReset.err = State.reset.err := rfl
@[simp] theorem State.applyReset_rspValid : s.applyReset.rspValid = State.reset.rspValid := rfl
@[simp] theorem State.applyReset_rspCode : s.applyReset.rspCode = State.reset.rspCode := rfl
@[simp] theorem State.applyReset_trace : s.applyReset.trace = s.trace := rfl
@[simp] theorem State.applyReset_responses : s.applyReset.responses = s.responses := rfl
@[simp] theorem State.applyReset_script : s.applyReset.script = s.script := rfl
@[simp] theorem State.applyReset_cycle : s.applyReset.cycle = s.cycle := rfl

/-! What a status bit reads depends on `ST` alone. -/

theorem State.configured_unconf {s : State} (h : s.st = .unconf) : s.configured = false := by simp [State.configured, h]
theorem State.configured_cfg {s : State} (h : s.st = .cfg) : s.configured = false := by simp [State.configured, h]
theorem State.configured_idle {s : State} (h : s.st = .idle) : s.configured = true := by simp [State.configured, h]
theorem State.configured_pat {s : State} (h : s.st = .pat) : s.configured = true := by simp [State.configured, h]
theorem State.configured_holdStart {s : State} (h : s.st = .holdStart) : s.configured = true := by simp [State.configured, h]
theorem State.configured_holdWait {s : State} (h : s.st = .holdWait) : s.configured = true := by simp [State.configured, h]
theorem State.configured_off {s : State} (h : s.st = .off) : s.configured = true := by simp [State.configured, h]
theorem State.busy_unconf {s : State} (h : s.st = .unconf) : s.busy = false := by simp [State.busy, h]
theorem State.busy_cfg {s : State} (h : s.st = .cfg) : s.busy = true := by simp [State.busy, h]
theorem State.busy_idle {s : State} (h : s.st = .idle) : s.busy = false := by simp [State.busy, h]
theorem State.busy_pat {s : State} (h : s.st = .pat) : s.busy = true := by simp [State.busy, h]
theorem State.busy_holdStart {s : State} (h : s.st = .holdStart) : s.busy = true := by simp [State.busy, h]
theorem State.busy_holdWait {s : State} (h : s.st = .holdWait) : s.busy = true := by simp [State.busy, h]
theorem State.busy_off {s : State} (h : s.st = .off) : s.busy = true := by simp [State.busy, h]

/-- A ready block is unconstructed or idle (R20, "commands accepted"). -/
theorem State.ready_cases {s : State} (h : s.busy = false) : s.st = .unconf ∨ s.st = .idle := by
  cases hs : s.st <;> simp [State.busy, hs] at h ⊢

/-- A busy block is in one of the five executing states (R20). -/
theorem State.busy_cases {s : State} (h : s.busy = true) :
    s.st = .cfg ∨ s.st = .pat ∨ s.st = .holdStart ∨ s.st = .holdWait ∨ s.st = .off := by
  cases hs : s.st <;> simp [State.busy, hs] at h ⊢

/-- A constructed block that takes commands is idle (R14, R20). -/
theorem State.idle_of_configured_ready {s : State} (hc : s.configured = true) (hb : s.busy = false) :
    s.st = .idle := by
  cases hs : s.st <;> simp [State.configured, State.busy, hs] at hc hb ⊢

end Sys2Proof.Machine
end

