-- ==== Sys2Proof/Laws/Ops.lean ====
section
/-! SUPPORT. What each shared operation does, said once: the platform operations with each answer, the start of
a step sequence, the arithmetic of the counts, and what accepting a command can leave. -/

namespace Sys2Proof.Machine

/-! ### The platform operations (R47, R48, R89, R136) -/

@[simp] theorem pinWrite_ok (k : PinPos) (v : Level) (s : State) :
    pinWrite k v false s =
      .done { s with trace := s.trace ++ [.wr (s.pinId.get k) v .ok], pinLvl := s.pinLvl.set k v } := rfl

@[simp] theorem pinWrite_fail (k : PinPos) (v : Level) (s : State) :
    pinWrite k v true s = .failed (s.emit (.wr (s.pinId.get k) v .fail)) := rfl

@[simp] theorem pinConfigure_ok (k : PinPos) (s : State) :
    pinConfigure k false s =
      .done { s with trace := s.trace ++ [.cfg (s.pinId.get k) .ok], pinOe := s.pinOe.set k true } := rfl

@[simp] theorem pinConfigure_fail (k : PinPos) (s : State) :
    pinConfigure k true s = .failed (s.emit (.cfg (s.pinId.get k) .fail)) := rfl

@[simp] theorem issueHold_ok (s : State) :
    issueHold false s = .done { s with trace := s.trace ++ [.hold s.dur .ok], tmr := s.dur } := rfl

@[simp] theorem issueHold_fail (s : State) :
    issueHold true s = .failed (s.emit (.hold s.dur .fail)) := rfl

@[simp] theorem andThen_done (s : State) (f : State → State) : (OpResult.done s).andThen f = f s := rfl

@[simp] theorem andThen_failed (s : State) (f : State → State) :
    (OpResult.failed s).andThen f = s.raise .ioFailure := rfl

/-! ### The start of a step sequence (R82, R83) -/

theorem startSequence_zero (s : State) : s.startSequence 0 = s.respond .ok := rfl

theorem startSequence_pos (s : State) {count : Int} (h : 0 < count) :
    s.startSequence count =
      { s with dir := .descending, idx := BitVec.ofInt 32 count, limit := BitVec.ofInt 32 count, sub := 0,
               st := .pat } := by
  unfold State.startSequence
  rw [if_neg (by omega), if_pos h]

theorem startSequence_neg (s : State) {count : Int} (h : count < 0) :
    s.startSequence count =
      { s with dir := .ascending, idx := 0, limit := BitVec.ofNat 32 count.natAbs, sub := 0, st := .pat } := by
  unfold State.startSequence
  rw [if_neg (by omega), if_neg (by omega)]

/-- A positive count in range is held exactly (R82). -/
theorem toNat_ofInt_of_pos {count : Int} (h : 0 < count) (hf : fitsS32 count = true) :
    (BitVec.ofInt 32 count).toNat = count.natAbs := by
  simp only [fitsS32, Bool.and_eq_true, decide_eq_true_eq] at hf
  rw [BitVec.toNat_ofInt]
  have : count % (2 ^ 32 : Nat) = count := Int.emod_eq_of_lt (by omega) (by omega)
  omega

/-- `abs(count)` of a count in range is held exactly, `abs(-2^31)` included (R82). -/
theorem toNat_ofNat_natAbs {count : Int} (hf : fitsS32 count = true) :
    (BitVec.ofNat 32 count.natAbs).toNat = count.natAbs := by
  simp only [fitsS32, Bool.and_eq_true, decide_eq_true_eq] at hf
  rw [BitVec.toNat_ofNat, Nat.mod_eq_of_lt (by omega)]

/-- The two ways of storing a positive count agree. -/
theorem ofInt_eq_ofNat_natAbs {count : Int} (h : 0 < count) :
    BitVec.ofInt 32 count = BitVec.ofNat 32 count.natAbs := by
  have : count = (count.natAbs : Int) := by omega
  rw [this, BitVec.ofInt_natCast, Int.natAbs_natCast]

/-! ### The counts of the rotation commands (R6, R100 to R106) -/

/-- `truncdiv` is division rounding toward zero (R6). -/
theorem truncdiv_eq_tdiv (a b : Int) (hb : 0 < b) : truncdiv a b = a.tdiv b := by
  obtain ⟨n, rfl⟩ := Int.eq_ofNat_of_zero_le hb.le
  cases a with
  | ofNat m =>
    cases m with
    | zero => simp [truncdiv]
    | succ m => simp [truncdiv, Int.tdiv, abs_of_nonneg (show (0 : Int) ≤ m + 1 by omega)]
  | negSucc m => simp [truncdiv, Int.tdiv, Int.sign]

theorem quarterSteps_full {c : Config} {m : Method} (h : m ≠ .halfStep) :
    quarterSteps c m = c.fullResolutionQuarter := by
  cases m <;> first | rfl | exact absurd rfl h

theorem quarterSteps_half (c : Config) : quarterSteps c .halfStep = 2 * c.fullResolutionQuarter := rfl

/-! ### The `io_*` ports (R10) -/

/-- A strobe stands on the port exactly when an operation is issued. -/
@[simp] theorem ioPort_valid (cycle : Nat) (op : Option IoOp) : (ioPort cycle op).valid = op.isSome := by
  rcases op with _ | _ | _ | _ <;> rfl

/-- Kind 3 is never driven (R10, U20). -/
theorem ioPort_kind_ne_three (cycle : Nat) (op : Option IoOp) : (ioPort cycle op).kind ≠ 3 := by
  rcases op with _ | _ | _ | _
  · simp only [ioPort]
    generalize Config.idleIoKind cycle = k
    revert k; decide
  all_goals exact of_decide_eq_true rfl

/-! ### The rotation commands' common part (R101 to R103, R106) -/

theorem rotate_unconfigured {s : State} (h : s.configured = false) (count : Int) :
    s.rotate count = s.raise .notPermitted := by simp [State.rotate, h]

theorem rotate_out_of_range {s : State} (h : s.configured = true) {count : Int}
    (hf : fitsS32 count = false) : s.rotate count = s.raise .rangeError := by simp [State.rotate, h, hf]

theorem rotate_in_range {s : State} (h : s.configured = true) {count : Int}
    (hf : fitsS32 count = true) : s.rotate count = s.startSequence count := by simp [State.rotate, h, hf]

/-- What a rotation can leave: a refusal, a range error, or a started sequence. -/
theorem rotate_cases (s : State) (count : Int) :
    (s.configured = false ∧ s.rotate count = s.raise .notPermitted)
    ∨ (s.configured = true ∧ fitsS32 count = false ∧ s.rotate count = s.raise .rangeError)
    ∨ (s.configured = true ∧ fitsS32 count = true ∧ s.rotate count = s.startSequence count) := by
  cases hc : s.configured
  · exact .inl ⟨rfl, rotate_unconfigured hc count⟩
  · cases hf : fitsS32 count
    · exact .inr (.inl ⟨rfl, rfl, rotate_out_of_range hc hf⟩)
    · exact .inr (.inr ⟨rfl, rfl, rotate_in_range hc hf⟩)

/-! ### Everything that accepting a command can leave -/

/-- What accepting a well-formed command can leave: an error that names itself, a construction begun, a setter's
write, or a sequence started; with the lifecycle state each needs. -/
theorem exec_cases {i : Instr} {s t : State} (hw : i.wellFormed = true) (h : exec i s = .next t) :
    (∃ e, t = s.raise e ∧ e ≠ .ioFailure)
    ∨ (∃ p d m, i = .init p d m ∧ s.st = .unconf ∧ pinsOk s.config p = true ∧
        t = { s with pinId := p, dur := d, method := m, sub := 0, st := .cfg })
    ∨ (∃ d, i = .setdur d ∧ s.configured = true ∧ t = State.respond { s with dur := d } .ok)
    ∨ (∃ m, i = .setmeth m ∧ s.configured = true ∧ t = State.respond { s with method := m } .ok)
    ∨ (∃ count, s.configured = true ∧ fitsS32 count = true ∧ t = s.startSequence count) := by
  have rot : ∀ count, Host.Outcome.next (s.rotate count) = (.next t : Host.Outcome State Fault Refusal) →
      (∃ e, t = s.raise e ∧ e ≠ .ioFailure)
      ∨ (∃ count, s.configured = true ∧ fitsS32 count = true ∧ t = s.startSequence count) := by
    intro count hn
    have hn : s.rotate count = t := by simpa using hn
    obtain ⟨-, hr⟩ | ⟨-, -, hr⟩ | ⟨hc, hf, hr⟩ := rotate_cases s count
    · exact .inl ⟨_, by rw [← hn, hr], by decide⟩
    · exact .inl ⟨_, by rw [← hn, hr], by decide⟩
    · exact .inr ⟨_, hc, hf, by rw [← hn, hr]⟩
  cases i with
  | init p d m =>
    simp only [exec, execInit] at h
    split at h
    · exact .inl ⟨.notPermitted, by simpa using h.symm, by decide⟩
    · split at h
      · exact .inl ⟨.configurationError, by simpa using h.symm, by decide⟩
      · rename_i h1 h2
        exact .inr (.inl ⟨p, d, m, rfl, by simpa using h1, by simpa using h2, by simpa using h.symm⟩)
  | step count =>
    simp only [exec, execStep] at h
    split at h
    · exact .inl ⟨.notPermitted, by simpa using h.symm, by decide⟩
    · rename_i hc
      exact .inr (.inr (.inr (.inr ⟨count, by simpa using hc, hw, by simpa using h.symm⟩)))
  | qrot n => exact (rot _ h).imp id fun h => .inr (.inr (.inr h))
  | hrot n => exact (rot _ h).imp id fun h => .inr (.inr (.inr h))
  | frot n => exact (rot _ h).imp id fun h => .inr (.inr (.inr h))
  | arot n => exact (rot _ h).imp id fun h => .inr (.inr (.inr h))
  | setdur d =>
    simp only [exec, execSetdur] at h
    split at h
    · exact .inl ⟨.notPermitted, by simpa using h.symm, by decide⟩
    · rename_i hc
      exact .inr (.inr (.inl ⟨d, rfl, by simpa using hc, by simpa using h.symm⟩))
  | setmeth m =>
    simp only [exec, execSetmeth] at h
    split at h
    · exact .inl ⟨.notPermitted, by simpa using h.symm, by decide⟩
    · rename_i hc
      exact .inr (.inr (.inr (.inl ⟨m, rfl, by simpa using hc, by simpa using h.symm⟩)))

end Sys2Proof.Machine
end

