-- ==== Sys2Proof/Laws/Engine.lean ====
section
/-! SUPPORT. What a transition of the sequencer can do, said once: each executing state with each answer, and
the inversion of `step`. -/

namespace Sys2Proof.Machine

/-! ### The executing states (R85 to R89, R116) -/

theorem cfgTransition_ok (s : State) :
    cfgTransition false s =
      if s.sub.val < 3 then
        { s with trace := s.trace ++ [.cfg (s.pinId.get s.sub) .ok], pinOe := s.pinOe.set s.sub true,
                 sub := s.sub + 1 }
      else
        State.respond { s with trace := s.trace ++ [.cfg (s.pinId.get s.sub) .ok],
                               pinOe := s.pinOe.set s.sub true, st := .idle } .ok := rfl

theorem patTransition_ok (s : State) :
    patTransition false s =
      if s.sub.val < 3 then
        { s with trace := s.trace ++ [.wr (s.pinId.get s.sub) s.patternLevel .ok],
                 pinLvl := s.pinLvl.set s.sub s.patternLevel, sub := s.sub + 1 }
      else
        { s with trace := s.trace ++ [.wr (s.pinId.get s.sub) s.patternLevel .ok],
                 pinLvl := s.pinLvl.set s.sub s.patternLevel, st := .holdStart } := rfl

theorem holdStartTransition_ok (s : State) :
    holdStartTransition false s =
      { s with trace := s.trace ++ [.hold s.dur .ok], tmr := s.dur, st := .holdWait } := rfl

/-- The state after the fourth LOW write, from which the index advances. -/
theorem offTransition_ok (s : State) :
    offTransition false s =
      if s.sub.val < 3 then
        { s with trace := s.trace ++ [.wr (s.pinId.get s.sub) .low .ok], pinLvl := s.pinLvl.set s.sub .low,
                 sub := s.sub + 1 }
      else
        State.advance { s with trace := s.trace ++ [.wr (s.pinId.get s.sub) .low .ok],
                               pinLvl := s.pinLvl.set s.sub .low } := rfl

/-- Whatever the executing state, a failed operation emits its event and raises IoFailure (R136). -/
theorem engineTransition_fail {s : State} {i : Inputs} {op : IoOp} (hop : s.issuedOp = some op)
    (he : i.ioErr = true) : engineTransition i s = (s.emit (eventOf op .fail)).raise .ioFailure := by
  cases hs : s.st <;> simp only [State.issuedOp, hs, reduceCtorEq, Option.some.injEq] at hop <;>
    subst hop <;> simp only [engineTransition, hs, he] <;> rfl

/-- What `Advance()` can do (R88): end the sequence or begin the next elementary step. -/
theorem advance_cases (s : State) :
    (sequenceDone s = true ∧ s.advance = State.respond { s with idx := nextIdx s, st := .idle } .ok)
    ∨ (sequenceDone s = false ∧ s.advance = { s with idx := nextIdx s, sub := 0, st := .pat }) := by
  unfold State.advance
  cases sequenceDone s <;> simp

/-- Everything the sequencer's own transition can do in an executing state: the operation fails, or it succeeds
and the sequencer goes on as R85 to R89 and R116 say. -/
theorem engineTransition_cases {i : Inputs} {s t : State} (hb : s.busy = true)
    (h : engineTransition i s = t) :
    (∃ op, s.issuedOp = some op ∧ i.ioErr = true ∧ t = (s.emit (eventOf op .fail)).raise .ioFailure)
    ∨ (s.st = .cfg ∧ i.ioErr = false ∧ t = cfgTransition false s)
    ∨ (s.st = .pat ∧ i.ioErr = false ∧ t = patTransition false s)
    ∨ (s.st = .holdStart ∧ i.ioErr = false ∧ t = holdStartTransition false s)
    ∨ (s.st = .holdWait ∧ t = holdWaitTransition i.tick s)
    ∨ (s.st = .off ∧ i.ioErr = false ∧ t = offTransition false s) := by
  subst h
  cases he : i.ioErr with
  | true =>
    cases hop : s.issuedOp with
    | some op => exact .inl ⟨op, rfl, rfl, engineTransition_fail hop he⟩
    | none =>
      obtain hs | hs | hs | hs | hs := State.busy_cases hb <;> simp [State.issuedOp, hs] at hop
      exact .inr (.inr (.inr (.inr (.inl ⟨hs, by simp [engineTransition, hs]⟩))))
  | false =>
    obtain hs | hs | hs | hs | hs := State.busy_cases hb <;> simp [engineTransition, hs, he]

/-! ### The inputs (R10) -/

@[simp] theorem inputs_cons (s : State) (i : Inputs) (rest : List Inputs) :
    State.inputs { s with script := i :: rest } = i := rfl

/-! ### A step -/

/-- What a step can do: reset; the sequencer's own transition, of a busy block or one presented nothing; an illegal
word completed; or a command accepted. -/
theorem step_cases {s t : State} (h : step s = .next t) :
    (s.inputs.rstN = false ∧ t = s.consume.applyReset)
    ∨ (s.inputs.rstN = true ∧ s.busy = true ∧ t = engineTransition s.inputs s.consume)
    ∨ (s.inputs.rstN = true ∧ s.busy = false ∧ s.inputs.cmdValid = false ∧ t = s.consume)
    ∨ (s.inputs.rstN = true ∧ s.busy = false ∧ s.inputs.cmdValid = true ∧
        (∃ e, decode s.inputs.cmdWord = .error e) ∧ t = s.consume.raise .illegalCommand)
    ∨ (s.inputs.rstN = true ∧ s.busy = false ∧ s.inputs.cmdValid = true ∧
        ∃ i, decode s.inputs.cmdWord = .ok i ∧ exec i s.consume = .next t) := by
  unfold step at h
  cases hr : s.inputs.rstN with
  | false => simp only [hr] at h; exact .inl ⟨rfl, by simpa using h.symm⟩
  | true =>
    cases hb : s.busy with
    | true => simp only [hr, hb] at h; exact .inr (.inl ⟨rfl, rfl, by simpa using h.symm⟩)
    | false =>
      cases hv : s.inputs.cmdValid with
      | false =>
        simp only [hr, hb, hv] at h
        have hi : engineTransition s.inputs s.consume = s.consume := by
          obtain hs | hs := State.ready_cases hb <;> simp [engineTransition, hs]
        exact .inr (.inr (.inl ⟨rfl, rfl, rfl, by simpa [hi] using h.symm⟩))
      | true =>
        simp only [hr, hb, hv] at h
        cases hd : decode s.inputs.cmdWord with
        | error e =>
          rw [hd] at h
          exact .inr (.inr (.inr (.inl ⟨rfl, rfl, rfl, ⟨e, rfl⟩, by simpa using h.symm⟩)))
        | ok i =>
          rw [hd] at h
          exact .inr (.inr (.inr (.inr ⟨rfl, rfl, rfl, i, rfl, by simpa using h⟩)))

end Sys2Proof.Machine
end

