-- ==== Sys2Proof/Laws/PerInstr.lean ====
section
/-! SUPPORT. Statements made of every command as syntax, one lemma for each constructor of Instr.
Family OpcodeField: the header of a command's word carries its opcode and a zero reserved field (spec
30_encoding R60, R62, R65). -/

namespace Sys2Proof.Laws.OpcodeField

/-- The word of the command has its opcode in `CW[71:68]` and zero in `CW[65:64]`. -/
def Statement (i : Instr) : Prop := opField (encode i) = opcode i ∧ rsvField (encode i) = 0

theorem init (pins : Quad PinId) (dur : Word) (method : Method) : Statement (.init pins dur method) := by
  simp [Statement, encode, opcode]

theorem step (count : Int) : Statement (.step count) := by simp [Statement, encode, opcode]

theorem qrot (n : Int) : Statement (.qrot n) := by simp [Statement, encode, opcode]

theorem hrot (n : Int) : Statement (.hrot n) := by simp [Statement, encode, opcode]

theorem frot (n : Int) : Statement (.frot n) := by simp [Statement, encode, opcode]

theorem arot (angle : Int) : Statement (.arot angle) := by simp [Statement, encode, opcode]

theorem setdur (d : Word) : Statement (.setdur d) := by simp [Statement, encode, opcode]

theorem setmeth (method : Method) : Statement (.setmeth method) := by simp [Statement, encode, opcode]

end Sys2Proof.Laws.OpcodeField
end

