-- ==== Sys2Proof/Laws/Run.lean ====
section
/-! SUPPORT. Runs of several transitions, said once: a run is one step and the rest, its inputs move along with
it, and every run answers a next state. -/

namespace Sys2Proof.Machine

theorem runFor_zero (s : State) : runFor 0 s = .next s := rfl

/-- A run of `n + 1` transitions of any machine is a step and a run of `n`. -/
theorem run_succ {M : Host.Core} {s t : M.State} (n : Nat) (h : M.step s = .next t) :
    M.run (n + 1) s = M.run n t := by
  simp only [Host.Core.run, h]

/-- The same of this one. -/
theorem runFor_succ {s t : State} (n : Nat) (h : step s = .next t) : runFor (n + 1) s = runFor n t :=
  run_succ (M := Sys2Proof.core) n h

/-- Every command answers a next state. -/
theorem exec_next (i : Instr) (s : State) : ∃ t, exec i s = .next t := by
  cases i with
  | init p d m =>
    simp only [exec, execInit]
    split
    · exact ⟨_, rfl⟩
    · split <;> exact ⟨_, rfl⟩
  | step count => simp only [exec, execStep]; split <;> exact ⟨_, rfl⟩
  | qrot n => exact ⟨_, rfl⟩
  | hrot n => exact ⟨_, rfl⟩
  | frot n => exact ⟨_, rfl⟩
  | arot n => exact ⟨_, rfl⟩
  | setdur d => simp only [exec, execSetdur]; split <;> exact ⟨_, rfl⟩
  | setmeth m => simp only [exec, execSetmeth]; split <;> exact ⟨_, rfl⟩

/-! ### What no transition writes: the parameters; and the inputs, which `consume` alone moves along -/

theorem startSequence_keeps (s : State) (count : Int) :
    (s.startSequence count).config = s.config ∧ (s.startSequence count).script = s.script
      ∧ (s.startSequence count).cycle = s.cycle := by
  unfold State.startSequence
  split
  · exact ⟨rfl, rfl, rfl⟩
  · split <;> exact ⟨rfl, rfl, rfl⟩

theorem rotate_keeps (s : State) (count : Int) :
    (s.rotate count).config = s.config ∧ (s.rotate count).script = s.script
      ∧ (s.rotate count).cycle = s.cycle := by
  obtain ⟨-, h⟩ | ⟨-, -, h⟩ | ⟨-, -, h⟩ := rotate_cases s count <;> rw [h]
  · exact ⟨rfl, rfl, rfl⟩
  · exact ⟨rfl, rfl, rfl⟩
  · exact startSequence_keeps s count

theorem exec_keeps {i : Instr} {s t : State} (h : exec i s = .next t) :
    t.config = s.config ∧ t.script = s.script ∧ t.cycle = s.cycle := by
  cases i with
  | init p d m =>
    simp only [exec, execInit] at h
    split at h
    · cases h; exact ⟨rfl, rfl, rfl⟩
    · split at h <;> cases h <;> exact ⟨rfl, rfl, rfl⟩
  | step count =>
    simp only [exec, execStep] at h
    split at h <;> cases h
    · exact ⟨rfl, rfl, rfl⟩
    · exact startSequence_keeps s count
  | qrot n => cases h; exact rotate_keeps s _
  | hrot n => cases h; exact rotate_keeps s _
  | frot n => cases h; exact rotate_keeps s _
  | arot n => cases h; exact rotate_keeps s _
  | setdur d => simp only [exec, execSetdur] at h; split at h <;> cases h <;> exact ⟨rfl, rfl, rfl⟩
  | setmeth m => simp only [exec, execSetmeth] at h; split at h <;> cases h <;> exact ⟨rfl, rfl, rfl⟩

theorem engineTransition_keeps (i : Inputs) (s : State) :
    (engineTransition i s).config = s.config ∧ (engineTransition i s).script = s.script
      ∧ (engineTransition i s).cycle = s.cycle := by
  cases hb : s.busy with
  | false =>
    have h : engineTransition i s = s := by
      obtain hs | hs := State.ready_cases hb <;> simp [engineTransition, hs]
    rw [h]
    exact ⟨rfl, rfl, rfl⟩
  | true =>
    obtain ⟨op, -, -, h⟩ | ⟨-, -, h⟩ | ⟨-, -, h⟩ | ⟨-, -, h⟩ | ⟨-, h⟩ | ⟨-, -, h⟩ :=
      engineTransition_cases hb (t := engineTransition i s) rfl <;> rw [h]
    · exact ⟨rfl, rfl, rfl⟩
    · rw [cfgTransition_ok]; split <;> exact ⟨rfl, rfl, rfl⟩
    · rw [patTransition_ok]; split <;> exact ⟨rfl, rfl, rfl⟩
    · exact ⟨rfl, rfl, rfl⟩
    · unfold holdWaitTransition
      split
      · exact ⟨rfl, rfl, rfl⟩
      · split <;> exact ⟨rfl, rfl, rfl⟩
    · rw [offTransition_ok]
      split
      · exact ⟨rfl, rfl, rfl⟩
      · obtain ⟨-, h⟩ | ⟨-, h⟩ := advance_cases
          { s with trace := s.trace ++ [.wr (s.pinId.get s.sub) .low .ok], pinLvl := s.pinLvl.set s.sub .low } <;>
          rw [h] <;> exact ⟨rfl, rfl, rfl⟩

/-- A step uses up one entry of the script and moves the counter by one. -/
theorem step_moves {s t : State} (h : step s = .next t) : t.script = s.script.tail ∧ t.cycle = s.cycle + 1 := by
  obtain ⟨-, rfl⟩ | ⟨-, -, rfl⟩ | ⟨-, -, -, rfl⟩ | ⟨-, -, -, -, rfl⟩ | ⟨-, -, -, i, -, he⟩ := step_cases h
  · exact ⟨rfl, rfl⟩
  · exact (engineTransition_keeps s.inputs s.consume).2
  · exact ⟨rfl, rfl⟩
  · exact ⟨rfl, rfl⟩
  · exact (exec_keeps he).2

theorem inputsAt_zero (s : State) : s.inputsAt 0 = s.inputs := by
  simp only [State.inputsAt, State.inputs, List.drop_zero]
  cases s.script <;> rfl

/-- The inputs a state meets are, after a step, one transition nearer. -/
theorem inputsAt_succ {s t : State} (h : step s = .next t) (m : Nat) : t.inputsAt m = s.inputsAt (m + 1) := by
  obtain ⟨hs, hc⟩ := step_moves h
  simp only [State.inputsAt, hs, hc, List.drop_tail]
  rw [show s.cycle + 1 + m = s.cycle + (m + 1) by omega]

end Sys2Proof.Machine
end

