-- ==== Sys2Proof/Tests/Slice0.lean ====
section
/-! SUPPORT. Tests of the model and witnesses for the statements' hypotheses. Expected results are the spec's:
30_encoding R60 to R67 for the words, 95_test_vectors sections 2 and 3 for the rest; the source of each is
named. -/

namespace Sys2Proof.Tests

open Sys2Proof Sys2Proof.Machine

/-! ### Well-formedness: an ill-formed term for each check -/

theorem test_step_out_of_range_refused : (Instr.step 2147483648).wellFormed = false := by decide
theorem test_qrot_out_of_range_refused : (Instr.qrot (-2147483649)).wellFormed = false := by decide
theorem test_hrot_out_of_range_refused : (Instr.hrot 2147483648).wellFormed = false := by decide
theorem test_frot_out_of_range_refused : (Instr.frot 2147483648).wellFormed = false := by decide
theorem test_arot_out_of_range_refused : (Instr.arot (-2147483649)).wellFormed = false := by decide
theorem test_step_least_count_accepted : (Instr.step (-2147483648)).wellFormed = true := by decide

/-! ### Decoding: words written out from the encoding (95_test_vectors 2.1) -/

theorem test_decode_init : decode 0x18FFFFFFFFFF00FE01#72 = .ok (.init ⟨1, 254, 0, 255⟩ 4294967295 .halfStep) := by decide
theorem test_decode_step : decode 0x200000000080000000#72 = .ok (.step (-2147483648)) := by decide
theorem test_decode_qrot : decode 0x300000000000000001#72 = .ok (.qrot 1) := by decide
theorem test_decode_hrot : decode 0x4000000000FFFFFFFF#72 = .ok (.hrot (-1)) := by decide
theorem test_decode_frot : decode 0x500000000000000001#72 = .ok (.frot 1) := by decide
theorem test_decode_arot : decode 0x6000000000001E0000#72 = .ok (.arot 1966080) := by decide
theorem test_decode_setdur : decode 0x7000000000FFFFFFFF#72 = .ok (.setdur 4294967295) := by decide
theorem test_decode_setmeth : decode 0x840000000000000000#72 = .ok (.setmeth .fullStep) := by decide
theorem test_decode_all_zero : decode 0 = .error .reservedOpcode := by decide
theorem test_decode_all_ones : decode (BitVec.allOnes 72) = .error .reservedField := by decide
theorem test_decode_init_method_three : decode 0x1C0000000304030201#72 = .error .noSuchMethod := by decide
theorem test_decode_step_unused_method : decode 0x240000000000000003#72 = .error .unusedField := by decide
theorem test_decode_step_unused_hi : decode 0x200000000100000003#72 = .error .unusedField := by decide
theorem test_decode_setmeth_unused_lo : decode 0x840000000000000001#72 = .error .unusedField := by decide

/-! ### Small states -/

/-- A transition in which nothing is presented, nothing fails and a tick is seen. -/
def tickIn : Inputs := { rstN := true, cmdValid := false, cmdWord := 0, tick := true, ioErr := false }

/-- A transition in which the operation issued fails. -/
def failIn : Inputs := { tickIn with ioErr := true }

/-- A transition in reset. -/
def resetIn : Inputs := { tickIn with rstN := false }

/-- A transition in which a command word is presented. -/
def wordIn (w : CommandWord) : Inputs := { tickIn with cmdValid := true, cmdWord := w }

/-- The unconstructed block with the inputs to come. -/
def fresh (script : List Inputs) : State := { State.reset with script := script }

/-- The block constructed with pins 1, 2, 3, 4, duration 1 and a method, in a given `ST` of a step sequence of three
ascending steps at index 1, with the inputs to come. -/
def built (st : SeqState) (m : Method) (script : List Inputs) : State :=
  { State.reset with
    st := st, pinId := ⟨1, 2, 3, 4⟩, method := m, dur := 1, dir := .ascending, idx := 1, limit := 3,
    pinOe := allDriven, script := script }

/-- The next state of an outcome, if it is one. -/
def nextOf : Host.Outcome State Fault Refusal → Option State
  | .next t    => some t
  | .fault _   => none
  | .refused _ => none

/-! ### One step each (95_test_vectors 2.2 to 2.6) -/

theorem test_step_positive_descends :
    (nextOf (exec (.step 9) (built .idle .fullStep []))).map (fun t => (t.st, t.dir, t.idx, t.limit))
      = some (.pat, .descending, 9, 9) := by decide
theorem test_step_least_count :
    (nextOf (exec (.step (-2147483648)) (built .idle .fullStep []))).map (fun t => (t.dir, t.idx, t.limit.toNat))
      = some (.ascending, 0, 2147483648) := by decide
theorem test_qrot_half_step_range :
    (nextOf (exec (.qrot 2097152) (built .idle .halfStep []))).map (fun t => (t.st, t.rspCode))
      = some (.idle, .error .rangeError) := by decide
theorem test_qrot_full_step_same_word :
    (nextOf (exec (.qrot 2097152) (built .idle .fullStep []))).map (fun t => (t.st, t.limit.toNat))
      = some (.pat, 1073741824) := by decide
theorem test_hrot_ascends :
    (nextOf (exec (.hrot (-1)) (built .idle .fullStep []))).map (fun t => (t.dir, t.idx, t.limit))
      = some (.ascending, 0, 1024) := by decide
theorem test_hrot_half_step_lower_bound :
    (nextOf (exec (.hrot (-1048577)) (built .idle .halfStep []))).map (fun t => errBits t.err)
      = some 0b01000#5 := by decide
theorem test_frot_half_step :
    (nextOf (exec (.frot 1) (built .idle .halfStep []))).map (fun t => t.limit) = some 4096 := by decide
theorem test_frot_lowest_fits :
    (nextOf (exec (.frot (-1048576)) (built .idle .fullStep []))).map (fun t => t.limit.toNat)
      = some 2147483648 := by decide
theorem test_arot_truncates_toward_zero :
    (nextOf (exec (.arot (-1966080)) (built .idle .fullStep []))).map (fun t => (t.dir, t.limit))
      = some (.ascending, 170) := by decide
theorem test_arot_below_one_step :
    (nextOf (exec (.arot 5759) (built .idle .halfStep []))).map (fun t => (t.st, t.rspCode)) = some (.idle, .ok) := by
  decide
theorem test_setdur_unconstructed :
    (nextOf (exec (.setdur 5) (fresh []))).map (fun t => (t.dur, completionCode t.rspCode)) = some (0, 2) := by decide
theorem test_setmeth_half_step :
    (nextOf (exec (.setmeth .halfStep) (built .idle .fullStep []))).map (fun t => (t.method, t.dur))
      = some (.halfStep, 1) := by decide
theorem test_init_equal_pins :
    (nextOf (exec (.init ⟨7, 8, 9, 7⟩ 0 .waveDrive) (fresh []))).map (fun t => (t.st, errBits t.err))
      = some (.unconf, 0b00100#5) := by decide
theorem test_init_rejected_pin :
    (nextOf (exec (.init ⟨1, 2, 3, 200⟩ 3 .fullStep)
        { fresh [] with config := { defaultConfig with rejectedPins := [200] } })).map (fun t => completionCode t.rspCode)
      = some 3 := by decide
/-- The first instruction after reset is the word presented (95_test_vectors 2.5, first row). -/
theorem test_first_word_after_reset :
    (nextOf (step (State.reset.withFetchWord 72 0x140000000304030201))).map (fun t => (t.st, t.pinId, t.dur, t.method))
      = some (.cfg, ⟨1, 2, 3, 4⟩, 3, .fullStep) := by decide
/-- The wires of a pattern write of phase 1 on pin C, HIGH (10_state R10, 20_memory R47). -/
theorem test_io_port_of_a_write :
    State.outputs { built .pat .fullStep [tickIn] with sub := 2 } =
      { cmdReady := false, rspValid := false, rspCode := 0, busy := true, configured := true, errSticky := 0,
        pinOut := 0, pinOe := 0xF, io := { valid := true, kind := 1, pin := 3, level := true, dur := 0 } } := by decide
/-- The wires of a hold: no pin and no level (40_step_primitive R89). -/
theorem test_io_port_of_a_hold :
    (built .holdStart .fullStep [tickIn]).outputs.io =
      { valid := true, kind := 2, pin := 0, level := false, dur := 1 } := by decide
theorem test_table_word : decodeTableWord 72 0x880000000000000000 = some (.setmeth .halfStep) := by decide
/-- The full-resolution pattern of phase 1 drives pin C (20_memory R44). -/
theorem test_pattern_of_phase_one : (built .pat .waveDrive []).pattern = ⟨.low, .low, .high, .low⟩ := by decide
/-- The half-step pattern of phase 7 drives pins D and A (20_memory R44). -/
theorem test_half_step_phase_seven : romRead defaultRom .halfStep 7 = ⟨.high, .low, .low, .high⟩ := by decide

/-! ### Witnesses: for each statement with hypotheses, a state and operands that meet them -/

/-- Pattern written, timer loaded, de-energizing from the first pin: states inside a sequence that meet the
invariant. -/
def patterned (st : SeqState) (sub : PinPos) (lvl : Quad Level) (script : List Inputs) : State :=
  { built st .fullStep script with sub := sub, pinLvl := lvl, tmr := 1 }

/-- `S_CFG` at its last pin, under the invariant. -/
def configuring (script : List Inputs) : State :=
  { fresh script with st := .cfg, pinId := ⟨1, 2, 3, 4⟩, sub := 3, pinOe := ⟨true, true, true, false⟩ }

/-- The last LOW write of the last elementary step. -/
def lastWrite (script : List Inputs) : State :=
  { patterned .off 3 allLow script with idx := 2 }

theorem witness_DecodeOfEncodeIsIdentity : (Instr.step (-3)).wellFormed = true := by decide
theorem witness_EachLegalWordHasOneMeaning : decode 0x2000000000FFFFFFFD#72 = .ok (.step (-3)) := by decide
theorem witness_OpcodeRowsSelectTheirCommands :
    (0x90#8 ++ 0#64 : BitVec 72).extractLsb' 68 4 = 9 ∧ (9 : Nat) ≤ (9#4).toNat := by decide
theorem witness_StepRunsDecodedCommand :
    let s := fresh [wordIn 0x700000000000000005#72]
    s.inputs.rstN = true ∧ s.busy = false ∧ s.inputs.cmdValid = true ∧ decode s.inputs.cmdWord = .ok (.setdur 5) := by
  decide
theorem witness_IllegalWordCompletesWithItsError :
    let s := fresh [wordIn 0x900000000000000000#72]
    s.inputs.rstN = true ∧ s.busy = false ∧ s.inputs.cmdValid = true
      ∧ ∃ e, decode s.inputs.cmdWord = .error e := ⟨by decide, by decide, by decide, .reservedOpcode, by decide⟩
theorem witness_CommandsAreTakenOnlyWhenReady_waiting :
    let s := fresh [tickIn]
    s.inputs.rstN = true ∧ s.busy = false ∧ s.inputs.cmdValid = false := by decide
theorem witness_CommandsAreTakenOnlyWhenReady_busy :
    (built .pat .fullStep [tickIn]).script = tickIn :: [] ∧ (built .pat .fullStep [tickIn]).busy = true := by decide
theorem witness_PinCheckDecidesConstruction :
    (fresh []).st = .unconf ∧ pinsOk (fresh []).config ⟨1, 2, 3, 4⟩ = true
      ∧ pinsOk (fresh []).config ⟨1, 1, 2, 3⟩ = false := by decide
theorem witness_InitConstructsTheDriver :
    let s := fresh [tickIn, tickIn, tickIn, tickIn]
    s.st = .unconf ∧ pinsOk s.config ⟨1, 2, 3, 4⟩ = true ∧ QuietFor s 4 := by unfold QuietFor; decide
theorem witness_StepStartsItsSequence :
    (built .idle .fullStep []).configured = true ∧ fitsS32 (-2147483648) = true := by decide
theorem witness_ZeroCountChangesNothing :
    (built .idle .fullStep []).configured = true
      ∧ Instr.qrot 0 ∈ [Instr.step 0, .qrot 0, .hrot 0, .frot 0, .arot 0] := by decide
theorem witness_RotationsStartOrReportRange_full :
    (built .idle .fullStep []).st = .idle ∧ (built .idle .fullStep []).config.fullResolutionQuarter = 512
      ∧ (built .idle .fullStep []).method ≠ .halfStep := by decide
theorem witness_RotationsStartOrReportRange_half :
    (built .idle .halfStep []).st = .idle ∧ (built .idle .halfStep []).config.fullResolutionQuarter = 512
      ∧ (built .idle .halfStep []).method = .halfStep := by decide
theorem witness_RotationIdentities :
    fitsS32 (2 * 1) = true ∧ fitsS32 (4 * 1) = true ∧ (built .idle .fullStep []).st = .idle
      ∧ (built .idle .fullStep []).config.fullResolutionQuarter ≠ 0 ∧ fitsS32 (2 * 1073741824) = false ∧ fitsS32 (4 * 536870912) = false := by decide
theorem witness_AngleIsTruncatedTowardZero :
    (built .idle .fullStep []).configured = true ∧ fitsS32 (-2147483648) = true
      ∧ (built .idle .fullStep []).method ≠ .halfStep ∧ (built .idle .halfStep []).configured = true
      ∧ (built .idle .fullStep []).config.fullResolutionQuarter = 512
      ∧ (built .idle .halfStep []).method = .halfStep := by decide
/-- The range clause needs another `QUARTER_STEPS` than this hardware's: with 512 it cannot be met (R106). -/
theorem witness_AngleIsTruncatedTowardZero_range :
    let s := { built .idle .fullStep [] with config := { defaultConfig with fullResolutionQuarter := 2 ^ 24 } }
    s.configured = true ∧ fitsS32 2147483647 = true ∧ s.st = .idle
      ∧ fitsS32 (Int.tdiv (2147483647 * (4 * (s.config.fullResolutionQuarter : Int))) 23592960) = false := by decide
theorem witness_SettersWriteTheirRegister : (built .idle .fullStep []).configured = true := by decide
theorem witness_LastSetterWins :
    (built .idle .fullStep []).configured = true
    ∧ ∃ u v u' v' w x, exec (.setdur 1) (built .idle .fullStep []) = .next u ∧ exec (.setdur 2) u = .next v
      ∧ exec (.setmeth .halfStep) u = .next w ∧ exec (.setmeth .halfStep) (built .idle .fullStep []) = .next u'
      ∧ exec (.setdur 1) u' = .next v' ∧ exec (.setmeth .waveDrive) u' = .next x :=
  ⟨by decide, _, _, _, _, _, _, rfl, rfl, rfl, rfl, rfl, rfl⟩
theorem witness_LifecycleRefusesCommands :
    (built .idle .fullStep []).st = .idle ∧ (fresh []).st = .unconf
      ∧ Instr.setdur 5 ∈ [Instr.step 1, .qrot 1, .hrot 1, .frot 1, .arot 1, .setdur 5, .setmeth .halfStep] := by decide
theorem witness_PatternWriteTransition :
    let s := built .pat .fullStep [tickIn]
    let f := built .pat .fullStep [failIn]
    (s.st = .pat ∧ s.inputs.rstN = true ∧ s.inputs.ioErr = false)
      ∧ (f.st = .pat ∧ f.inputs.rstN = true ∧ f.inputs.ioErr = true) := by decide
theorem witness_HoldTransitions :
    let s := built .holdStart .fullStep [tickIn]
    let f := built .holdStart .fullStep [failIn]
    let z := built .holdWait .fullStep [tickIn]
    let w := patterned .holdWait 3 allLow [tickIn]
    let n := patterned .holdWait 3 allLow [{ tickIn with tick := false }]
    (s.inputs.rstN = true ∧ s.st = .holdStart ∧ s.inputs.ioErr = false)
      ∧ (f.inputs.rstN = true ∧ f.st = .holdStart ∧ f.inputs.ioErr = true)
      ∧ (z.inputs.rstN = true ∧ z.st = .holdWait ∧ z.tmr = 0)
      ∧ (w.inputs.rstN = true ∧ w.st = .holdWait ∧ w.tmr ≠ 0 ∧ w.inputs.tick = true)
      ∧ (n.inputs.rstN = true ∧ n.st = .holdWait ∧ n.tmr ≠ 0 ∧ n.inputs.tick = false) := by decide
theorem witness_DeenergizeTransition :
    let s := patterned .off 2 allLow [tickIn]
    let e := lastWrite [tickIn]
    let f := lastWrite [failIn]
    (s.st = .off ∧ s.inputs.rstN = true ∧ s.inputs.ioErr = false ∧ s.sub.val < 3)
      ∧ (e.st = .off ∧ e.inputs.rstN = true ∧ e.inputs.ioErr = false ∧ e.sub = 3
          ∧ (e.dir = .descending → (3 : Word) = e.idx - 1) ∧ (e.dir = .ascending → (3 : Word) = e.idx + 1))
      ∧ (f.st = .off ∧ f.inputs.rstN = true ∧ f.inputs.ioErr = true) := by decide
theorem witness_ConfigureTransition :
    let s := configuring [tickIn]
    let f := configuring [failIn]
    (s.st = .cfg ∧ s.inputs.rstN = true ∧ s.inputs.ioErr = false)
      ∧ (f.st = .cfg ∧ f.inputs.rstN = true ∧ f.inputs.ioErr = true) := by decide
theorem witness_FailedOperationEndsTheCommand :
    let s := built .holdStart .fullStep [failIn]
    s.inputs.rstN = true ∧ s.issuedOp = some (.hold 1) ∧ s.inputs.ioErr = true := by decide
theorem witness_ElementaryStepIssuesNineOperations :
    let s := built .pat .fullStep (List.replicate 11 tickIn)
    s.st = .pat ∧ s.sub = 0 ∧ QuietFor s (s.dur.toNat + 10) ∧ TicksFor s (s.dur.toNat + 10) := by
  unfold QuietFor TicksFor; decide
theorem witness_StepRunsToCompletion :
    let s := built .idle .fullStep (List.replicate 22 tickIn)
    s.st = .idle ∧ fitsS32 (-2) = true ∧ (-2 : Int) ≠ 0 ∧ 22 = (-2 : Int).natAbs * (s.dur.toNat + 10)
      ∧ QuietFor s 22 ∧ TicksFor s 22 := by unfold QuietFor TicksFor; decide
/-- Three states inside commands that meet the invariant: the last LOW write, a running hold, and INIT's last pin. -/
theorem witness_invariant_off : Inv (lastWrite [tickIn]) := by constructor <;> decide
theorem witness_invariant_hold : Inv (patterned .holdWait 3 ⟨.low, .low, .high, .low⟩ [tickIn]) := by
  constructor <;> decide
theorem witness_invariant_cfg : Inv (configuring [tickIn]) := by constructor <;> decide
theorem witness_EmittedAndRemainingEventsAreConserved :
    ∃ t, Inv (lastWrite [tickIn]) ∧ (lastWrite [tickIn]).busy = true ∧ (lastWrite [tickIn]).inputs.rstN = true
      ∧ (lastWrite [tickIn]).inputs.ioErr = false ∧ step (lastWrite [tickIn]) = .next t :=
  ⟨_, witness_invariant_off, by decide, by decide, by decide, rfl⟩
theorem witness_QuietCommandEmitsItsTrace :
    ∃ t, Inv (lastWrite [tickIn]) ∧ QuietFor (lastWrite [tickIn]) 1 ∧ runFor 1 (lastWrite [tickIn]) = .next t
      ∧ t.busy = false ∧ (∀ m, m < 1 → ∀ v, runFor m (lastWrite [tickIn]) = .next v → v.busy = true) ∧ 0 < 1 := by
  refine ⟨_, witness_invariant_off, by unfold QuietFor; decide, rfl, by decide, ?_, by decide⟩
  intro m hm v hv
  obtain rfl : m = 0 := by omega
  cases hv
  decide
theorem witness_SequenceStartsWithItsWholeTrace :
    (built .idle .fullStep []).st = .idle ∧ fitsS32 (-3) = true := by decide
theorem witness_TimeUnitsAreConserved :
    ∃ s t, s = patterned .holdWait 3 ⟨.low, .low, .high, .low⟩ [tickIn] ∧ Inv s ∧ s.busy = true
      ∧ s.inputs.rstN = true ∧ s.inputs.ioErr = false ∧ step s = .next t :=
  ⟨_, _, rfl, witness_invariant_hold, by decide, by decide, by decide, rfl⟩
theorem witness_IndexStreams : (0 : Int) < 9 ∧ 8 < (9 : Int).natAbs ∧ (-9 : Int) < 0 := by decide
theorem witness_TickStarvationHoldsTheBlock :
    let s := patterned .holdWait 3 allLow (List.replicate 2 { tickIn with tick := false })
    s.st = .holdWait ∧ s.tmr ≠ 0 ∧ ∀ m, m < 2 → (s.inputsAt m).rstN = true ∧ (s.inputsAt m).tick = false := by decide
theorem witness_OutputPortsShowTheRegisters :
    let s := fun st => built st .fullStep [tickIn]
    (s .cfg).inputs.rstN = true ∧ (s .cfg).st = .cfg ∧ (s .pat).inputs.rstN = true ∧ (s .pat).st = .pat
      ∧ (s .holdStart).inputs.rstN = true ∧ (s .holdStart).st = .holdStart
      ∧ (s .off).inputs.rstN = true ∧ (s .off).st = .off ∧ (s .idle).inputs.rstN = true ∧ (s .idle).st = .idle := by
  decide
/-- INIT, four operations, and the response: the run of one command has ended, and cleanly. -/
theorem witness_RunEndLeavesNothingRunning :
    ∃ t, RunEndedCleanly [0x140000000304030201#72] 5
      (fresh [wordIn 0x140000000304030201#72, tickIn, tickIn, tickIn, tickIn, tickIn]) t :=
  ⟨_, ⟨by decide, by decide, rfl, by decide, by decide, by decide, by decide⟩, by decide⟩
/-- SETDUR before INIT: the run has ended, and not cleanly. -/
theorem witness_RunEndLeavesNothingRunning_error :
    ∃ t, RunEnded [0x700000000000000005#72] 1 (fresh [wordIn 0x700000000000000005#72, tickIn]) t
      ∧ errClear t.err = false :=
  ⟨_, ⟨by decide, by decide, rfl, by decide, by decide, by decide, by decide⟩, by decide⟩
/-- INIT is accepted, reset comes after its first operation, and nothing is presented in the two transitions
that follow. -/
theorem witness_AbandonedCommandNeverEnds :
    ∃ s u v t, s = fresh [wordIn 0x140000000304030201#72, tickIn, resetIn, tickIn, tickIn] ∧ s.accepting = true
      ∧ 0 < 2 ∧ (∀ j, 0 < j → j ≤ 2 → ∃ w, runFor j s = .next w ∧ w.busy = true)
      ∧ runFor 2 s = .next u ∧ u.inputs.rstN = false ∧ step u = .next v
      ∧ acceptedWords 2 v = [] ∧ runFor 2 v = .next t := by
  refine ⟨_, _, _, _, rfl, by decide, by decide, ?_, rfl, by decide, rfl, by decide, rfl⟩
  intro j h0 h2
  obtain rfl | rfl : j = 1 ∨ j = 2 := by omega
  · exact ⟨_, rfl, by decide⟩
  · exact ⟨_, rfl, by decide⟩
theorem witness_ResetStopsEverything : (built .pat .fullStep [resetIn]).inputs.rstN = false := by decide
theorem witness_StepKeepsInvariant : ∃ t, Inv (lastWrite [tickIn]) ∧ step (lastWrite [tickIn]) = .next t :=
  ⟨_, witness_invariant_off, rfl⟩
theorem witness_UnwrittenRegistersAreNeverRead :
    ∃ t t', (fresh [tickIn]).live = State.live { fresh [tickIn] with dur := 7, method := .halfStep }
      ∧ step (fresh [tickIn]) = .next t ∧ step { fresh [tickIn] with dur := 7, method := .halfStep } = .next t' :=
  ⟨_, _, by decide, rfl, rfl⟩
theorem witness_InputsCountOnlyWhereTheyAreUsed :
    let s := built .pat .fullStep []
    let i := tickIn
    let j := { wordIn 5 with tick := false }
    i.rstN = j.rstN ∧ (s.busy = false → i.cmdValid = j.cmdValid ∧ i.cmdWord = j.cmdWord)
      ∧ (s.st = .holdWait → i.tick = j.tick) ∧ (s.issuedOp.isSome = true → i.ioErr = j.ioErr) ∧ i ≠ j := by decide
theorem witness_ConfigurationChangesOnlyByItsCommands :
    ∃ s t, s = built .idle .fullStep [wordIn 0x880000000000000000#72] ∧ s.configured = true ∧ s.inputs.rstN = true
      ∧ step s = .next t ∧ t.method ≠ s.method := ⟨_, _, rfl, by decide, by decide, rfl, by decide⟩
theorem witness_ConfigurationChangesOnlyByItsCommands_duration :
    ∃ s t, s = built .idle .fullStep [wordIn 0x700000000000000005#72] ∧ s.configured = true ∧ s.inputs.rstN = true
      ∧ step s = .next t ∧ t.dur ≠ s.dur := ⟨_, _, rfl, by decide, by decide, rfl, by decide⟩
theorem witness_LifecycleOfTheDriver :
    ∃ t, step (configuring [tickIn]) = .next t ∧ (configuring [tickIn]).inputs.rstN = true
      ∧ (configuring [tickIn]).configured = false ∧ t.configured = true := ⟨_, rfl, by decide, by decide, by decide⟩
theorem witness_ErrorFlagsAreSticky :
    ∃ t, step (lastWrite [failIn]) = .next t ∧ (lastWrite [failIn]).inputs.rstN = true ∧ errGet t.err .ioFailure = true :=
  ⟨_, rfl, by decide, by decide⟩
theorem witness_TraceFollowsTheOperationPort :
    ∃ t, step (lastWrite [failIn]) = .next t ∧ (lastWrite [failIn]).inputs.rstN = true ∧ t.trace = [.wr 4 .low .fail] :=
  ⟨_, rfl, by decide, by decide⟩
theorem witness_OneResponseForEachCommand :
    ∃ t, (lastWrite [tickIn]).inputs.rstN = true ∧ step (lastWrite [tickIn]) = .next t ∧ t.rspValid = true :=
  ⟨_, by decide, rfl, by decide⟩
theorem witness_ParametersNeverChange : ∃ t, step (fresh [resetIn]) = .next t := ⟨_, rfl⟩
theorem witness_PinLevelsChangeOnlyByWrites :
    ∃ s t, s = { built .pat .fullStep [tickIn] with sub := 2 } ∧ s.inputs.rstN = true ∧ step s = .next t
      ∧ t.pinLvl ≠ s.pinLvl := ⟨_, _, rfl, by decide, rfl, by decide⟩
theorem witness_PinsAreLowAfterSuccess :
    ∃ t, Inv (lastWrite [tickIn]) ∧ (lastWrite [tickIn]).inSequence = true ∧ (lastWrite [tickIn]).inputs.rstN = true
      ∧ step (lastWrite [tickIn]) = .next t ∧ t.busy = false ∧ t.rspCode = .ok :=
  ⟨_, witness_invariant_off, by decide, by decide, rfl, by decide, by decide⟩
theorem witness_PartialPatternsStayWithinThePattern :
    ∃ s t, s = patterned .holdWait 3 ⟨.low, .low, .high, .low⟩ [tickIn] ∧ Inv s ∧ s.busy = true ∧ WithinPattern s
      ∧ step s = .next t := ⟨_, _, rfl, witness_invariant_hold, by decide, by unfold WithinPattern; decide, rfl⟩
theorem witness_FullResolutionMethodsAreIndistinguishable :
    ∃ s', romAdmissible (built .pat .waveDrive [tickIn]).config.seqRom = true
      ∧ EqualUpToFullResolution (built .pat .waveDrive [tickIn]) (built .pat .fullStep [tickIn])
      ∧ step (built .pat .waveDrive [tickIn]) = .next s' :=
  ⟨_, by decide, ⟨.inr ⟨.inl rfl, .inr rfl⟩, rfl⟩, rfl⟩

end Sys2Proof.Tests
end

/-! ## Every decoded command is well-formed -/

namespace Sys2Proof

/-- A format A command is well-formed when the command is for every operand (R61, R64). -/
theorem decodeArgument_wellFormed {w : CommandWord} {mk : Word → Instr} {i : Instr}
    (h : decodeArgument w mk = .ok i) (hmk : ∀ lo, (mk lo).wellFormed = true) : i.wellFormed = true := by
  obtain ⟨-, -, rfl⟩ := decodeArgument_eq_ok.mp h
  exact hmk (loField w)

theorem decodeInit_wellFormed {w : CommandWord} {i : Instr} (h : decodeInit w = .ok i) : i.wellFormed = true := by
  unfold decodeInit at h
  split at h <;> cases h
  rfl

theorem decodeSetmeth_wellFormed {w : CommandWord} {i : Instr} (h : decodeSetmeth w = .ok i) :
    i.wellFormed = true := by
  unfold decodeSetmeth at h
  split at h
  · cases h
  · split at h <;> cases h
    rfl

/-- A word that decodes at all decodes to a well-formed command: a signed operand is read from a 32-bit field
(R64, R68). -/
theorem decode_wellFormed {w : CommandWord} {i : Instr} (h : decode w = .ok i) : i.wellFormed = true := by
  unfold decode at h
  split at h
  · cases h
  split at h
  · exact decodeInit_wellFormed h
  iterate 5
    split at h
    · exact decodeArgument_wellFormed h fitsS32_toInt
  split at h
  · exact decodeArgument_wellFormed h fun _ => rfl
  split at h
  · exact decodeSetmeth_wellFormed h
  · cases h

end Sys2Proof

/-! ## The trace and the operation port (R8, R10) -/

namespace Sys2Proof.Machine

/-- The operation a state issues depends on no input and on no response. -/
@[simp] theorem issuedOp_consume (s : State) : s.consume.issuedOp = s.issuedOp := rfl

/-- Operations are issued in exactly four states of the sequencer (R85, R87, R89, R116). -/
theorem issuedOp_isSome_iff (s : State) :
    s.issuedOp.isSome = true ↔ s.st = .cfg ∨ s.st = .pat ∨ s.st = .holdStart ∨ s.st = .off := by
  cases hs : s.st <;> simp [State.issuedOp, hs]

/-- A ready block issues nothing. -/
theorem issuedOp_of_ready {s : State} (h : s.busy = false) : s.issuedOp = none := by
  obtain hs | hs := State.ready_cases h <;> simp [State.issuedOp, hs]

@[simp] theorem startSequence_trace (s : State) (count : Int) : (s.startSequence count).trace = s.trace := by
  unfold State.startSequence
  split
  · rfl
  · split <;> rfl

@[simp] theorem advance_trace (s : State) : s.advance.trace = s.trace := by
  obtain ⟨-, h⟩ | ⟨-, h⟩ := advance_cases s <;> simp [h]

@[simp] theorem holdWaitTransition_trace (tick : Bool) (s : State) : (holdWaitTransition tick s).trace = s.trace := by
  unfold holdWaitTransition
  split
  · rfl
  · split <;> rfl

/-- Accepting a command emits nothing: every operation is issued in a later transition. -/
theorem exec_trace {i : Instr} {s t : State} (hw : i.wellFormed = true) (h : exec i s = .next t) :
    t.trace = s.trace := by
  obtain ⟨e, rfl, -⟩ | ⟨p, d, m, -, -, -, rfl⟩ | ⟨d, -, -, rfl⟩ | ⟨m, -, -, rfl⟩ | ⟨count, -, -, rfl⟩ :=
    exec_cases hw h
  · exact State.raise_trace s e
  · rfl
  · rfl
  · rfl
  · exact startSequence_trace s count

/-- A transition of a busy block emits the event of the operation it issues, with the platform's answer, and
nothing else. -/
theorem engineTransition_trace (i : Inputs) {s : State} (hb : s.busy = true) :
    (engineTransition i s).trace =
      s.trace ++ s.issuedOp.toList.map fun op => eventOf op (answerOf i.ioErr) := by
  obtain ⟨op, hop, he, ht⟩ | ⟨hs, he, ht⟩ | ⟨hs, he, ht⟩ | ⟨hs, he, ht⟩ | ⟨hs, ht⟩ | ⟨hs, he, ht⟩ :=
    engineTransition_cases hb (t := engineTransition i s) rfl <;> rw [ht]
  · simp [hop, he, answerOf]
  · rw [cfgTransition_ok]
    split <;> simp [State.issuedOp, hs, he, answerOf, eventOf]
  · rw [patTransition_ok]
    split <;> simp [State.issuedOp, hs, he, answerOf, eventOf]
  · rw [holdStartTransition_ok]
    simp [State.issuedOp, hs, he, answerOf, eventOf]
  · simp [State.issuedOp, hs]
  · rw [offTransition_ok]
    split <;> simp [State.issuedOp, hs, he, answerOf, eventOf]

/-- A transition in reset emits nothing (R160). -/
theorem step_trace_of_reset {s t : State} (hr : s.inputs.rstN = false) (h : step s = .next t) :
    t.trace = s.trace := by
  obtain ⟨-, rfl⟩ | ⟨hr', -⟩ | ⟨hr', -⟩ | ⟨hr', -⟩ | ⟨hr', -⟩ := step_cases h
  · rfl
  all_goals simp [hr] at hr'

/-- A ready block outside reset emits nothing, whatever is on the command port. -/
theorem step_trace_of_ready {s t : State} (hr : s.inputs.rstN = true) (hb : s.busy = false)
    (h : step s = .next t) : t.trace = s.trace := by
  obtain ⟨hr', -⟩ | ⟨-, hb', -⟩ | ⟨-, -, -, rfl⟩ | ⟨-, -, -, -, rfl⟩ | ⟨-, -, -, i, hd, he⟩ := step_cases h
  · simp [hr] at hr'
  · simp [hb] at hb'
  · rfl
  · rfl
  · exact exec_trace (s := s.consume) (decode_wellFormed hd) he

/-- The transition of a busy block outside reset is the sequencer's own. -/
theorem step_of_busy {s t : State} (hr : s.inputs.rstN = true) (hb : s.busy = true) (h : step s = .next t) :
    t = engineTransition s.inputs s.consume := by
  obtain ⟨hr', -⟩ | ⟨-, -, ht⟩ | ⟨-, hb', -⟩ | ⟨-, hb', -⟩ | ⟨-, hb', -⟩ := step_cases h
  · simp [hr] at hr'
  · exact ht
  all_goals simp [hb] at hb'

/-- Outside reset the trace grows by the event of the operation issued (R8, R10). -/
theorem step_trace {s t : State} (hr : s.inputs.rstN = true) (h : step s = .next t) :
    t.trace = s.trace ++ s.issuedOp.toList.map fun op => eventOf op (answerOf s.inputs.ioErr) := by
  cases hb : s.busy with
  | false => simp [issuedOp_of_ready hb, step_trace_of_ready hr hb h]
  | true =>
    rw [step_of_busy hr hb h]
    simpa using engineTransition_trace s.inputs (s := s.consume) hb

/-- Settles O45: outside reset by the cases `busy` and ready of a step, in reset by R160, and the states that issue
operations by the table of `issuedOp`. -/
theorem traceFollowsTheOperationPort : Obligations.TraceFollowsTheOperationPort := by
  intro s t h
  exact ⟨fun hr => step_trace hr h, fun hr => step_trace_of_reset hr h, issuedOp_isSome_iff s⟩

end Sys2Proof.Machine

/-! ## The invariant (R15, R17, R85 to R89, R117, R141, R165) -/

namespace Sys2Proof

/-- The pin positions up to the next one are those before this one, and this one. -/
theorem PinPos.lt_succ_iff {j k : PinPos} (h : k.val < 3) : j < k + 1 ↔ j ≤ k := by
  rw [Fin.lt_def, Fin.le_def, PinPos.val_succ h, Nat.lt_succ_iff]

/-- Every pin position is at most the last. -/
theorem PinPos.le_last {k : PinPos} (h : ¬ k.val < 3) (j : PinPos) : j ≤ k := by
  rw [PinPos.eq_last h]
  exact Fin.le_last j

/-- A write at `k` carries an agreement with `p` before `k` on to `k` itself. -/
theorem Quad.get_set_of_le {α : Type} {q : Quad α} {p : PinPos → α} {k : PinPos}
    (h : ∀ j, j < k → q.get j = p j) {j : PinPos} (hj : j ≤ k) : (q.set k (p k)).get j = p j := by
  rw [Quad.get_set]
  split
  case isTrue he => rw [he]
  case isFalse he => exact h j (lt_of_le_of_ne hj he)

/-- A LOW write at `k` moves the border between the released pins and the others by one. -/
theorem Quad.get_set_released {α : Type} {q p : Quad α} {v : α} {k : PinPos} (hk : k.val < 3)
    (h : ∀ j, q.get j = if j < k then v else p.get j) (j : PinPos) :
    (q.set k v).get j = if j < k + 1 then v else p.get j := by
  simp only [PinPos.lt_succ_iff hk, Quad.get_set, h, le_iff_lt_or_eq]
  split
  case isTrue he => simp [he]
  case isFalse he => simp [he]

namespace Machine

/-- The range of the index of a running sequence (R15, R88): what `Inv` says of it, by direction. -/
def IndexInRange : Dir → Word → Word → Prop
  | .descending, idx, limit => 1 ≤ idx.toNat ∧ idx.toNat ≤ limit.toNat ∧ limit.toNat < 2 ^ 31
  | .ascending, idx, limit  => idx.toNat < limit.toNat ∧ limit.toNat ≤ 2 ^ 31

theorem Inv.indexInRange {s : State} (h : Inv s) (hq : s.inSequence = true) :
    IndexInRange s.dir s.idx s.limit := by
  cases hd : s.dir with
  | descending => exact h.descending hq hd
  | ascending => exact h.ascending hq hd

/-- A sequence that is not done has its next index in range (R88). -/
theorem indexInRange_nextIdx {s : State} (h : IndexInRange s.dir s.idx s.limit)
    (hn : sequenceDone s = false) : IndexInRange s.dir (nextIdx s) s.limit := by
  cases hd : s.dir with
  | descending =>
    simp only [hd, IndexInRange, sequenceDone, nextIdx, decide_eq_false_iff_not] at h hn ⊢
    bv_omega
  | ascending =>
    simp only [hd, IndexInRange, sequenceDone, nextIdx, decide_eq_false_iff_not] at h hn ⊢
    bv_omega

theorem get_allDriven (k : PinPos) : allDriven.get k = true := by
  fin_cases k <;> rfl

/-! ### What the invariant asks in each state of the sequencer -/

section Intro

variable {s : State}

/-- An unconstructed block needs its pins LOW and nothing else. -/
theorem Inv.of_unconf (hs : s.st = .unconf) (hl : s.pinLvl = allLow) : Inv s where
  lowUntilConstructed _ := hl
  assigned h := absurd hs h
  driven h := by simp [State.configured_unconf hs] at h
  configuring h := by simp [hs] at h
  descending h := by simp [State.inSequence, hs] at h
  ascending h := by simp [State.inSequence, hs] at h
  timed h := by simp [hs] at h
  writing h := by simp [hs] at h
  holding h := by simp [hs] at h
  releasing h := by simp [hs] at h
  responding _ := State.busy_unconf hs

/-- A block under construction needs its pins LOW and those before `SUB` configured. -/
theorem Inv.of_cfg (hs : s.st = .cfg) (hl : s.pinLvl = allLow) (ha : pinsOk s.config s.pinId = true)
    (hc : ∀ k : PinPos, k < s.sub → s.pinOe.get k = true) (hr : s.rspValid = false) : Inv s where
  lowUntilConstructed _ := hl
  assigned _ := ha
  driven h := by simp [State.configured_cfg hs] at h
  configuring _ := hc
  descending h := by simp [State.inSequence, hs] at h
  ascending h := by simp [State.inSequence, hs] at h
  timed h := by simp [hs] at h
  writing h := by simp [hs] at h
  holding h := by simp [hs] at h
  releasing h := by simp [hs] at h
  responding h := by simp [hr] at h

/-- An idle block needs its assignment and its four pins driven. -/
theorem Inv.of_idle (hs : s.st = .idle) (ha : pinsOk s.config s.pinId = true) (hd : s.pinOe = allDriven) :
    Inv s where
  lowUntilConstructed h := by simp [hs] at h
  assigned _ := ha
  driven _ := hd
  configuring h := by simp [hs] at h
  descending h := by simp [State.inSequence, hs] at h
  ascending h := by simp [State.inSequence, hs] at h
  timed h := by simp [hs] at h
  writing h := by simp [hs] at h
  holding h := by simp [hs] at h
  releasing h := by simp [hs] at h
  responding _ := State.busy_idle hs

/-- Inside a sequence the index is in range, and the timer and the pins are as the state of the sequencer says. -/
theorem Inv.of_inSequence (hq : s.inSequence = true) (ha : pinsOk s.config s.pinId = true)
    (hd : s.pinOe = allDriven) (hx : IndexInRange s.dir s.idx s.limit) (hr : s.rspValid = false)
    (ht : s.st = .holdWait → s.tmr.toNat ≤ s.dur.toNat)
    (hw : s.st = .pat → ∀ k : PinPos, k < s.sub → s.pinLvl.get k = s.pattern.get k)
    (hh : s.st = .holdStart ∨ s.st = .holdWait → s.pinLvl = s.pattern)
    (ho : s.st = .off → ∀ k : PinPos, s.pinLvl.get k = if k < s.sub then .low else s.pattern.get k) :
    Inv s where
  lowUntilConstructed h := by obtain hs | hs := h <;> simp [State.inSequence, hs] at hq
  assigned _ := ha
  driven _ := hd
  configuring h := by simp [State.inSequence, h] at hq
  descending _ h := by simpa [h, IndexInRange] using hx
  ascending _ h := by simpa [h, IndexInRange] using hx
  timed := ht
  writing := hw
  holding := hh
  releasing := ho
  responding h := by simp [hr] at h

/-- An elementary step begins with no pin written, so its first pin asks nothing of the levels (R83, R88). -/
theorem Inv.of_pat_start (hs : s.st = .pat) (h0 : s.sub = 0) (ha : pinsOk s.config s.pinId = true)
    (hd : s.pinOe = allDriven) (hx : IndexInRange s.dir s.idx s.limit) (hr : s.rspValid = false) : Inv s :=
  .of_inSequence (by simp [State.inSequence, hs]) ha hd hx hr
    (by simp [hs]) (fun _ k hk => by simp [h0] at hk) (by simp [hs]) (by simp [hs])

end Intro

/-! ### The operations keep the invariant -/

section Keep

variable {s : State}

/-- The invariant speaks of no input, and of the response only while it is given. -/
theorem Inv.consume (h : Inv s) : Inv s.consume :=
  { h with responding := by simp }

/-- The invariant does not speak of the trace. -/
theorem Inv.emit (h : Inv s) (v : Event) : Inv (s.emit v) :=
  { h with }

/-- An error leaves the block unconstructed with LOW pins or constructed and idle (R140). -/
theorem Inv.raise (h : Inv s) (e : Error) : Inv (s.raise e) := by
  have idle : s.configured = true → stateAfterError s.st = .idle → Inv (s.raise e) := fun hc hs =>
    .of_idle hs (h.assigned fun hu => by simp [State.configured_unconf hu] at hc) (h.driven hc)
  cases hs : s.st with
  | unconf => exact .of_unconf (by simp [hs, stateAfterError]) (h.lowUntilConstructed (.inl hs))
  | cfg => exact .of_unconf (by simp [hs, stateAfterError]) (h.lowUntilConstructed (.inr hs))
  | idle => exact idle (State.configured_idle hs) (by simp [hs, stateAfterError])
  | pat => exact idle (State.configured_pat hs) (by simp [hs, stateAfterError])
  | holdStart => exact idle (State.configured_holdStart hs) (by simp [hs, stateAfterError])
  | holdWait => exact idle (State.configured_holdWait hs) (by simp [hs, stateAfterError])
  | off => exact idle (State.configured_off hs) (by simp [hs, stateAfterError])

/-- A sequence started by an idle block has its index in range, `-2^31` included (R82). -/
theorem Inv.startSequence (h : Inv s) (hs : s.st = .idle) (hr : s.rspValid = false) {count : Int}
    (hf : fitsS32 count = true) : Inv (s.startSequence count) := by
  have ha := h.assigned (by simp [hs])
  have hd := h.driven (State.configured_idle hs)
  have hb : -2 ^ 31 ≤ count ∧ count ≤ 2 ^ 31 - 1 := by simpa [fitsS32] using hf
  obtain hc | rfl | hc := lt_trichotomy count 0
  · rw [startSequence_neg s hc]
    refine .of_pat_start rfl rfl ha hd ?_ hr
    simp only [IndexInRange, toNat_ofNat_natAbs hf, BitVec.ofNat_eq_ofNat, BitVec.toNat_zero]
    omega
  · exact .of_idle hs ha hd
  · rw [startSequence_pos s hc]
    refine .of_pat_start rfl rfl ha hd ?_ hr
    simp only [IndexInRange, toNat_ofInt_of_pos hc hf]
    omega

/-- Accepting a command keeps the invariant. -/
theorem Inv.exec (h : Inv s) (hb : s.busy = false) (hr : s.rspValid = false) {i : Instr} {t : State}
    (hw : i.wellFormed = true) (he : exec i s = .next t) : Inv t := by
  have idle : s.configured = true → s.st = .idle := fun hc => State.idle_of_configured_ready hc hb
  obtain ⟨e, rfl, -⟩ | ⟨p, d, m, -, hs, hp, rfl⟩ | ⟨d, -, hc, rfl⟩ | ⟨m, -, hc, rfl⟩ | ⟨count, hc, hf, rfl⟩ :=
    exec_cases hw he
  · exact h.raise e
  · exact .of_cfg rfl (h.lowUntilConstructed (.inl hs)) hp (fun k hk => by simp at hk) hr
  · exact .of_idle (idle hc) (h.assigned (by simp [idle hc])) (h.driven hc)
  · exact .of_idle (idle hc) (h.assigned (by simp [idle hc])) (h.driven hc)
  · exact h.startSequence (idle hc) hr hf

/-- A configured pin keeps the invariant; the fourth leaves all pins driven (R116). -/
theorem Inv.cfgTransition (h : Inv s) (hs : s.st = .cfg) (hr : s.rspValid = false) :
    Inv (cfgTransition false s) := by
  have ha := h.assigned (by simp [hs])
  have hk : ∀ {k}, k ≤ s.sub → (s.pinOe.set s.sub true).get k = true :=
    Quad.get_set_of_le (p := fun _ => true) (h.configuring hs)
  rw [cfgTransition_ok]
  split
  case isTrue hsub =>
    exact .of_cfg hs (h.lowUntilConstructed (.inr hs)) ha (fun k hlt => hk ((PinPos.lt_succ_iff hsub).mp hlt)) hr
  case isFalse hsub =>
    exact .of_idle rfl ha (Quad.ext_get fun k => (hk (PinPos.le_last hsub k)).trans (get_allDriven k).symm)

/-- A pattern write keeps the invariant; the fourth leaves the whole pattern on the pins (R85). -/
theorem Inv.patTransition (h : Inv s) (hs : s.st = .pat) (hr : s.rspValid = false) :
    Inv (patTransition false s) := by
  have ha := h.assigned (by simp [hs])
  have hd := h.driven (State.configured_pat hs)
  have hx := h.indexInRange (by simp [State.inSequence, hs])
  have hk : ∀ {k}, k ≤ s.sub → (s.pinLvl.set s.sub s.patternLevel).get k = s.pattern.get k :=
    Quad.get_set_of_le (p := s.pattern.get) (h.writing hs)
  rw [patTransition_ok]
  split
  case isTrue hsub =>
    exact .of_inSequence (by simp [State.inSequence, hs]) ha hd hx hr (by simp [hs])
      (fun _ k hlt => hk ((PinPos.lt_succ_iff hsub).mp hlt)) (by simp [hs]) (by simp [hs])
  case isFalse hsub =>
    exact .of_inSequence rfl ha hd hx hr (by simp) (by simp)
      (fun _ => Quad.ext_get fun k => hk (PinPos.le_last hsub k)) (by simp)

/-- Issuing the hold loads the timer with the duration (R89). -/
theorem Inv.holdStartTransition (h : Inv s) (hs : s.st = .holdStart) (hr : s.rspValid = false) :
    Inv (holdStartTransition false s) :=
  .of_inSequence rfl (h.assigned (by simp [hs])) (h.driven (State.configured_holdStart hs))
    (h.indexInRange (by simp [State.inSequence, hs])) hr (fun _ => le_rfl) (fun hp => by cases hp)
    (fun _ => h.holding (.inl hs)) (fun ho => by cases ho)

/-- The timer only falls, and at zero every pin still has the pattern's level (R89). -/
theorem Inv.holdWaitTransition (h : Inv s) (hs : s.st = .holdWait) (hr : s.rspValid = false) (tick : Bool) :
    Inv (holdWaitTransition tick s) := by
  have ha := h.assigned (by simp [hs])
  have hd := h.driven (State.configured_holdWait hs)
  have hx := h.indexInRange (by simp [State.inSequence, hs])
  have hl := h.holding (.inr hs)
  have ht := h.timed hs
  unfold Machine.holdWaitTransition
  split
  · exact .of_inSequence rfl ha hd hx hr (by simp) (by simp) (by simp) (fun _ k => by simp [hl, State.pattern])
  · split
    case isTrue hz _ =>
      exact .of_inSequence (by simp [State.inSequence, hs]) ha hd hx hr (fun _ => by simp only; bv_omega)
        (by simp [hs]) (fun _ => hl) (by simp [hs])
    case isFalse => exact h

/-- `Advance()` ends the sequence or begins the next elementary step with an index in range (R88). -/
theorem Inv.advance (ha : pinsOk s.config s.pinId = true) (hd : s.pinOe = allDriven)
    (hx : IndexInRange s.dir s.idx s.limit) (hr : s.rspValid = false) : Inv s.advance := by
  obtain ⟨-, he⟩ | ⟨hn, he⟩ := advance_cases s <;> rw [he]
  · exact .of_idle rfl ha hd
  · exact .of_pat_start rfl rfl ha hd (indexInRange_nextIdx hx hn) hr

/-- A LOW write keeps the invariant; after the fourth the index advances (R87). -/
theorem Inv.offTransition (h : Inv s) (hs : s.st = .off) (hr : s.rspValid = false) :
    Inv (offTransition false s) := by
  have ha := h.assigned (by simp [hs])
  have hd := h.driven (State.configured_off hs)
  have hx := h.indexInRange (by simp [State.inSequence, hs])
  rw [offTransition_ok]
  split
  case isTrue hsub =>
    exact .of_inSequence (by simp [State.inSequence, hs]) ha hd hx hr (by simp [hs]) (by simp [hs]) (by simp [hs])
      (fun _ => Quad.get_set_released hsub (h.releasing hs))
  case isFalse => exact .advance ha hd hx hr

/-- The sequencer's own transition keeps the invariant, whatever the inputs. -/
theorem Inv.engineTransition (h : Inv s) (hb : s.busy = true) (hr : s.rspValid = false) (i : Inputs) :
    Inv (engineTransition i s) := by
  obtain ⟨op, -, -, ht⟩ | ⟨hs, -, ht⟩ | ⟨hs, -, ht⟩ | ⟨hs, -, ht⟩ | ⟨hs, ht⟩ | ⟨hs, -, ht⟩ :=
    engineTransition_cases hb (t := Machine.engineTransition i s) rfl <;> rw [ht]
  · exact (h.emit _).raise _
  · exact h.cfgTransition hs hr
  · exact h.patTransition hs hr
  · exact h.holdStartTransition hs hr
  · exact h.holdWaitTransition hs hr i.tick
  · exact h.offTransition hs hr

/-- A reset block meets the invariant, whatever went before (R160). -/
theorem inv_applyReset (s : State) : Inv s.applyReset := .of_unconf rfl rfl

end Keep

/-- Settles O38: at reset the block is unconstructed with all pins LOW. -/
theorem invariantHoldsAtReset : Obligations.InvariantHoldsAtReset := inv_applyReset State.reset

/-- Settles O39, case by case of what a step can do; each operation keeps the invariant by its own lemma. -/
theorem stepKeepsInvariant : Obligations.StepKeepsInvariant := by
  intro s t h hstep
  obtain ⟨-, rfl⟩ | ⟨-, hb, rfl⟩ | ⟨-, -, -, rfl⟩ | ⟨-, -, -, -, rfl⟩ | ⟨-, hb, -, i, hd, he⟩ := step_cases hstep
  · exact inv_applyReset s.consume
  · exact h.consume.engineTransition hb rfl s.inputs
  · exact h.consume
  · exact h.consume.raise .illegalCommand
  · exact h.consume.exec hb rfl (decode_wellFormed hd) he

end Machine

end Sys2Proof

/-! ## A step in each of its cases (R29, R68, R131, R160) -/

namespace Sys2Proof.Machine

section StepEquations

variable {s : State}

theorem step_eq_applyReset (hr : s.inputs.rstN = false) : step s = .next s.consume.applyReset := by
  simp [step, hr]

theorem step_eq_engineTransition (hr : s.inputs.rstN = true) (hb : s.busy = true) :
    step s = .next (engineTransition s.inputs s.consume) := by
  simp [step, hr, hb]

theorem step_eq_consume (hr : s.inputs.rstN = true) (hb : s.busy = false) (hv : s.inputs.cmdValid = false) :
    step s = .next s.consume := by
  obtain hs | hs := State.ready_cases hb <;> simp [step, hr, hb, hv, engineTransition, hs]

theorem step_eq_raise (hr : s.inputs.rstN = true) (hb : s.busy = false) (hv : s.inputs.cmdValid = true)
    {e : IllegalWord} (hd : decode s.inputs.cmdWord = .error e) :
    step s = .next (s.consume.raise .illegalCommand) := by
  simp [step, hr, hb, hv, hd]

theorem step_eq_exec (hr : s.inputs.rstN = true) (hb : s.busy = false) (hv : s.inputs.cmdValid = true)
    {i : Instr} (hd : decode s.inputs.cmdWord = .ok i) : step s = exec i s.consume := by
  simp [step, hr, hb, hv, hd]

/-- The sequencer's own transition looks at `tick` and `io_err` alone (R146). -/
theorem engineTransition_congr {i j : Inputs} (ht : i.tick = j.tick) (he : i.ioErr = j.ioErr) (s : State) :
    engineTransition i s = engineTransition j s := by
  simp only [engineTransition, ht, he]

/-- `busy` is 1 exactly in the five executing states (R29). -/
theorem busy_iff (s : State) :
    s.busy = true ↔ s.st = .cfg ∨ s.st = .pat ∨ s.st = .holdStart ∨ s.st = .holdWait ∨ s.st = .off := by
  cases hs : s.st <;> simp [State.busy, hs]

/-- `configured` is 1 exactly in the five states after construction (R14). -/
theorem configured_iff (s : State) :
    s.configured = true ↔ s.st = .idle ∨ s.st = .pat ∨ s.st = .holdStart ∨ s.st = .holdWait ∨ s.st = .off := by
  cases hs : s.st <;> simp [State.configured, hs]

theorem cmdReady_iff (s : State) : s.cmdReady = true ↔ s.inputs.rstN = true ∧ s.busy = false := by
  simp [State.cmdReady]

/-- A step of a busy block looks at `rst_n`, `tick` and `io_err`, and at nothing else on the input ports. -/
theorem step_congr_of_busy {s' : State} (hb : s.busy = true) (hc : s'.consume = s.consume)
    (hr : s'.inputs.rstN = s.inputs.rstN) (ht : s'.inputs.tick = s.inputs.tick)
    (he : s'.inputs.ioErr = s.inputs.ioErr) : step s' = step s := by
  have hst : s'.st = s.st := by simpa using congrArg State.st hc
  have hb' : s'.busy = true := by simpa [State.busy, hst] using hb
  cases h : s.inputs.rstN with
  | false => rw [step_eq_applyReset h, step_eq_applyReset (hr.trans h), hc]
  | true =>
    rw [step_eq_engineTransition h hb, step_eq_engineTransition (hr.trans h) hb', hc, engineTransition_congr ht he]

/-- A busy block makes the same transition whatever stands on the command port (R29). -/
theorem step_ignores_command_port (hb : s.busy = true) {i : Inputs} {rest : List Inputs}
    (hs : s.script = i :: rest) (v : Bool) (w : CommandWord) :
    step { s with script := { i with cmdValid := v, cmdWord := w } :: rest } = step s := by
  have hi : s.inputs = i := by simp [State.inputs, hs]
  exact step_congr_of_busy hb (by simp [State.consume, hs]) (by simp [hi]) (by simp [hi]) (by simp [hi])

end StepEquations

/-- Settles O6: the accepted command runs on the state `consume` leaves. -/
theorem stepRunsDecodedCommand : Obligations.StepRunsDecodedCommand :=
  fun _ _ hr hb hv hd => step_eq_exec hr hb hv hd

/-- Settles O8: the two status bits by their tables, and a step of a waiting and of a busy block. -/
theorem commandsAreTakenOnlyWhenReady : Obligations.CommandsAreTakenOnlyWhenReady := fun s =>
  ⟨busy_iff s, cmdReady_iff s, step_eq_consume, fun _ _ v w hs hb => step_ignores_command_port hb hs v w⟩

end Sys2Proof.Machine

/-! ## Dead registers (R26) -/

namespace Sys2Proof.Machine

section Live

variable (s : State)

/-! A register that is live in every `ST` is untouched by `live`. -/

@[simp] theorem live_config : s.live.config = s.config := by unfold State.live; split <;> rfl
@[simp] theorem live_st : s.live.st = s.st := by unfold State.live; split <;> rfl
@[simp] theorem live_pinLvl : s.live.pinLvl = s.pinLvl := by unfold State.live; split <;> rfl
@[simp] theorem live_pinOe : s.live.pinOe = s.pinOe := by unfold State.live; split <;> rfl
@[simp] theorem live_err : s.live.err = s.err := by unfold State.live; split <;> rfl
@[simp] theorem live_rspValid : s.live.rspValid = s.rspValid := by unfold State.live; split <;> rfl
@[simp] theorem live_rspCode : s.live.rspCode = s.rspCode := by unfold State.live; split <;> rfl
@[simp] theorem live_trace : s.live.trace = s.trace := by unfold State.live; split <;> rfl
@[simp] theorem live_responses : s.live.responses = s.responses := by unfold State.live; split <;> rfl
@[simp] theorem live_script : s.live.script = s.script := by unfold State.live; split <;> rfl
@[simp] theorem live_cycle : s.live.cycle = s.cycle := by unfold State.live; split <;> rfl

@[simp] theorem live_inputs : s.live.inputs = s.inputs := by simp [State.inputs]
@[simp] theorem live_busy : s.live.busy = s.busy := by simp [State.busy]
@[simp] theorem live_configured : s.live.configured = s.configured := by simp [State.configured]
@[simp] theorem live_cmdReady : s.live.cmdReady = s.cmdReady := by simp [State.cmdReady]

/-- What an operation needs of the registers is live where it is issued. -/
@[simp] theorem live_issuedOp : s.live.issuedOp = s.issuedOp := by
  cases hs : s.st <;> simp [State.issuedOp, State.live, State.patternLevel, hs]

@[simp] theorem live_live : s.live.live = s.live := by
  cases hs : s.st <;> simp [State.live, hs]

theorem live_consume : s.consume.live = s.live.consume := by
  cases hs : s.st <;> simp [State.live, State.consume, hs]

/-- Reset reads no register that can be dead. -/
@[simp] theorem live_applyReset : s.live.applyReset = s.applyReset := by
  simp [State.applyReset]

/-- No output port shows a dead register. -/
theorem live_outputs : s.live.outputs = s.outputs := by
  simp [State.outputs, State.activeOutputs]

/-- An error entry kills registers and revives none. -/
theorem live_raise (e : Error) : (s.live.raise e).live = (s.raise e).live := by
  cases hs : s.st <;> simp [State.live, State.raise, State.respond, stateAfterError, hs]

end Live

section LiveSteps

variable {s : State}

/-- `SUB` is live where it names the pin of the operation (R16). -/
theorem live_sub (h : s.st = .cfg ∨ s.st = .pat ∨ s.st = .off) : s.live.sub = s.sub := by
  obtain hs | hs | hs := h <;> simp [State.live, hs]

/-- An idle block writes the step counter before it reads it. -/
theorem live_startSequence (hs : s.st = .idle) (count : Int) :
    (s.live.startSequence count).live = (s.startSequence count).live := by
  obtain hc | rfl | hc := lt_trichotomy count 0
  · simp [startSequence_neg _ hc, State.live, hs]
  · simp [startSequence_zero, State.live, State.respond, hs]
  · simp [startSequence_pos _ hc, State.live, hs]

theorem live_rotate (hs : s.st = .idle) (count : Int) :
    (s.live.rotate count).live = (s.rotate count).live := by
  have hc := State.configured_idle hs
  cases hf : fitsS32 count with
  | false => rw [rotate_out_of_range (by simpa using hc) hf, rotate_out_of_range hc hf, live_raise]
  | true => rw [rotate_in_range (by simpa using hc) hf, rotate_in_range hc hf, live_startSequence hs]

/-- Before construction every command but INIT is refused (R133). -/
theorem exec_of_unconfigured (hc : s.configured = false) {i : Instr} (hi : ∀ p d m, i ≠ .init p d m) :
    exec i s = .next (s.raise .notPermitted) := by
  cases i with
  | init p d m => exact absurd rfl (hi p d m)
  | step count => simp [exec, execStep, hc]
  | qrot n => simp [exec, execQrot, rotate_unconfigured hc]
  | hrot n => simp [exec, execHrot, rotate_unconfigured hc]
  | frot n => simp [exec, execFrot, rotate_unconfigured hc]
  | arot angle => simp [exec, execArot, rotate_unconfigured hc]
  | setdur d => simp [exec, execSetdur, hc]
  | setmeth m => simp [exec, execSetmeth, hc]

/-- INIT writes what it makes live, and reads nothing that construction has not written (R115). -/
theorem live_execInit (p : Quad PinId) (d : Word) (m : Method) {t : State} (h : execInit p d m s = .next t) :
    ∃ u, execInit p d m s.live = .next u ∧ u.live = t.live := by
  unfold execInit at h ⊢
  rw [live_st, live_config]
  split at h
  case isTrue hs => cases h; exact ⟨_, if_pos hs, live_raise s _⟩
  case isFalse hs =>
    rw [if_neg hs]
    have hs : s.st = .unconf := by simpa using hs
    split at h
    case isTrue hp => cases h; exact ⟨_, if_pos hp, live_raise s _⟩
    case isFalse hp => cases h; exact ⟨_, if_neg hp, by simp [State.live, hs]⟩

/-- A command accepted by an idle block reads no dead register. -/
theorem live_exec_of_idle (hs : s.st = .idle) {i : Instr} {t : State} (h : exec i s = .next t) :
    ∃ u, exec i s.live = .next u ∧ u.live = t.live := by
  have hc := State.configured_idle hs
  have hm : s.live.method = s.method := by simp [State.live, hs]
  cases i with
  | init p d m => exact live_execInit p d m h
  | step count =>
    simp only [exec, execStep, hc, live_configured] at h ⊢
    cases h
    exact ⟨_, rfl, live_startSequence hs count⟩
  | qrot n => cases h; exact ⟨_, rfl, by rw [live_config, hm, live_rotate hs]⟩
  | hrot n => cases h; exact ⟨_, rfl, by rw [live_config, hm, live_rotate hs]⟩
  | frot n => cases h; exact ⟨_, rfl, by rw [live_config, hm, live_rotate hs]⟩
  | arot angle => cases h; exact ⟨_, rfl, by rw [live_config, hm, live_rotate hs]⟩
  | setdur d =>
    simp only [exec, execSetdur, hc, live_configured] at h ⊢
    cases h
    exact ⟨_, rfl, by simp [State.live, State.respond, hs]⟩
  | setmeth m =>
    simp only [exec, execSetmeth, hc, live_configured] at h ⊢
    cases h
    exact ⟨_, rfl, by simp [State.live, State.respond, hs]⟩

/-- A command accepted by a ready block reads no dead register. -/
theorem live_exec (hb : s.busy = false) {i : Instr} {t : State} (h : exec i s = .next t) :
    ∃ u, exec i s.live = .next u ∧ u.live = t.live := by
  obtain hs | hs := State.ready_cases hb
  · by_cases hi : ∃ p d m, i = .init p d m
    · obtain ⟨p, d, m, rfl⟩ := hi
      exact live_execInit p d m h
    · have hi : ∀ p d m, i ≠ .init p d m := fun p d m he => hi ⟨p, d, m, he⟩
      have hc := State.configured_unconf hs
      rw [exec_of_unconfigured hc hi] at h
      cases h
      exact ⟨_, exec_of_unconfigured (by simpa using hc) hi, live_raise s _⟩
  · exact live_exec_of_idle hs h

/-- A failed operation reads no dead register. -/
theorem live_emit_raise (v : Event) (e : Error) : ((s.live.emit v).raise e).live = ((s.emit v).raise e).live := by
  have he : s.live.emit v = (s.emit v).live := by cases hs : s.st <;> simp [State.live, State.emit, hs]
  rw [he, live_raise]

/-- `Advance()` reads the step counter alone, which is live in `S_OFF`. -/
theorem live_advance (hs : s.st = .off) : s.live.advance.live = s.advance.live := by
  have hn : nextIdx s.live = nextIdx s := by simp [nextIdx, State.live, hs]
  have hd : sequenceDone s.live = sequenceDone s := by
    have hdir : s.live.dir = s.dir := by simp [State.live, hs]
    have hlim : s.live.limit = s.limit := by simp [State.live, hs]
    unfold sequenceDone
    rw [hn, hdir, hlim]
  unfold State.advance
  rw [hd, hn]
  split <;> simp [State.live, State.respond, hs]

/-- The sequencer's own transition reads no dead register. -/
theorem live_engineTransition (hb : s.busy = true) (i : Inputs) :
    (engineTransition i s.live).live = (engineTransition i s).live := by
  obtain ⟨op, hop, he, ht⟩ | ⟨hs, he, ht⟩ | ⟨hs, he, ht⟩ | ⟨hs, he, ht⟩ | ⟨hs, ht⟩ | ⟨hs, he, ht⟩ :=
    engineTransition_cases hb (t := engineTransition i s) rfl
  · rw [ht, engineTransition_fail (by simpa using hop) he, live_emit_raise]
  · simp only [engineTransition, live_st, hs, he, cfgTransition_ok]
    rw [live_sub (.inl hs)]
    split <;> simp [State.live, State.respond, hs]
  · simp only [engineTransition, live_st, hs, he, patTransition_ok]
    rw [live_sub (.inr (.inl hs))]
    split <;> simp [State.live, State.patternLevel, hs]
  · simp [engineTransition, hs, he, holdStartTransition_ok, State.live]
  · simp only [engineTransition, live_st, hs, holdWaitTransition]
    have htmr : s.live.tmr = s.tmr := by simp [State.live, hs]
    rw [htmr]
    split
    · simp [State.live, hs]
    · split <;> simp [State.live, hs]
  · simp only [engineTransition, live_st, hs, he, offTransition_ok]
    rw [live_sub (.inr (.inr hs))]
    split
    · simp [State.live, hs]
    · refine Eq.trans ?_ (live_advance rfl)
      simp [State.live, hs]

/-- A step of the live part of a state is the live part of its step. -/
theorem live_step {t : State} (h : step s = .next t) : ∃ u, step s.live = .next u ∧ u.live = t.live := by
  obtain ⟨hr, rfl⟩ | ⟨hr, hb, rfl⟩ | ⟨hr, hb, hv, rfl⟩ | ⟨hr, hb, hv, ⟨e, hd⟩, rfl⟩ | ⟨hr, hb, hv, i, hd, he⟩ :=
    step_cases h
  · exact ⟨_, step_eq_applyReset (by simpa using hr), by rw [← live_consume, live_applyReset]⟩
  · refine ⟨_, step_eq_engineTransition (by simpa using hr) (by simpa using hb), ?_⟩
    rw [← live_consume, live_inputs, live_engineTransition (s := s.consume) hb]
  · exact ⟨_, step_eq_consume (by simpa using hr) (by simpa using hb) (by simpa using hv),
      by rw [← live_consume, live_live]⟩
  · exact ⟨_, step_eq_raise (by simpa using hr) (by simpa using hb) (by simpa using hv) (by simpa using hd),
      by rw [← live_consume, live_raise]⟩
  · rw [step_eq_exec (by simpa using hr) (by simpa using hb) (by simpa using hv) (by simpa using hd),
      ← live_consume]
    exact live_exec (s := s.consume) hb he

end LiveSteps

/-- Settles O40: a step and the outputs are those of the live part, and the live parts are equal. -/
theorem unwrittenRegistersAreNeverRead : Obligations.UnwrittenRegistersAreNeverRead := by
  intro s s' t t' hl h h'
  obtain ⟨u, hu, hut⟩ := live_step h
  obtain ⟨u', hu', hut'⟩ := live_step h'
  have huu : u = u' := by rw [hl, hu'] at hu; simpa using hu.symm
  exact ⟨by rw [← hut, huu, hut'], by rw [← live_outputs s, hl, live_outputs s']⟩

end Sys2Proof.Machine

/-! ## The configuration registers (R11 to R13) -/

namespace Sys2Proof.Machine

/-- The registers that only INIT, SETMETH and SETDUR write are the same in both states. -/
def SameSettings (s t : State) : Prop :=
  t.pinId = s.pinId ∧ t.pinOe = s.pinOe ∧ t.method = s.method ∧ t.dur = s.dur

section Settings

variable {s : State}

theorem startSequence_sameSettings (count : Int) : SameSettings s (s.startSequence count) := by
  unfold State.startSequence
  split
  · exact ⟨rfl, rfl, rfl, rfl⟩
  · split <;> exact ⟨rfl, rfl, rfl, rfl⟩

theorem advance_sameSettings : SameSettings s s.advance := by
  obtain ⟨-, h⟩ | ⟨-, h⟩ := advance_cases s <;> rw [h] <;> exact ⟨rfl, rfl, rfl, rfl⟩

theorem holdWaitTransition_sameSettings (tick : Bool) : SameSettings s (holdWaitTransition tick s) := by
  unfold holdWaitTransition
  split
  · exact ⟨rfl, rfl, rfl, rfl⟩
  · split <;> exact ⟨rfl, rfl, rfl, rfl⟩

/-- The sequencer's own transition of a constructed block writes no configuration register. -/
theorem engineTransition_sameSettings (hc : s.configured = true) (hb : s.busy = true) (i : Inputs) :
    SameSettings s (engineTransition i s) := by
  obtain ⟨op, -, -, ht⟩ | ⟨hs, -, -⟩ | ⟨-, -, ht⟩ | ⟨-, -, ht⟩ | ⟨-, ht⟩ | ⟨-, -, ht⟩ :=
    engineTransition_cases hb (t := engineTransition i s) rfl
  · rw [ht]; exact ⟨rfl, rfl, rfl, rfl⟩
  · simp [State.configured_cfg hs] at hc
  · rw [ht, patTransition_ok]; split <;> exact ⟨rfl, rfl, rfl, rfl⟩
  · rw [ht]; exact ⟨rfl, rfl, rfl, rfl⟩
  · rw [ht]; exact holdWaitTransition_sameSettings i.tick
  · rw [ht, offTransition_ok]
    split
    · exact ⟨rfl, rfl, rfl, rfl⟩
    · exact advance_sameSettings

/-- A command accepted by a constructed block writes no configuration register, or it is a setter and writes its
own (R109, R120, R122). -/
theorem exec_settings_cases (hc : s.configured = true) {i : Instr} {t : State} (hw : i.wellFormed = true)
    (h : exec i s = .next t) :
    SameSettings s t
    ∨ (∃ d, i = .setdur d ∧ t = State.respond { s with dur := d } .ok)
    ∨ (∃ m, i = .setmeth m ∧ t = State.respond { s with method := m } .ok) := by
  obtain ⟨e, rfl, -⟩ | ⟨p, d, m, -, hs, -, -⟩ | ⟨d, hi, -, ht⟩ | ⟨m, hi, -, ht⟩ | ⟨count, -, -, rfl⟩ :=
    exec_cases hw h
  · exact .inl ⟨rfl, rfl, rfl, rfl⟩
  · simp [State.configured_unconf hs] at hc
  · exact .inr (.inl ⟨d, hi, ht⟩)
  · exact .inr (.inr ⟨m, hi, ht⟩)
  · exact .inl (startSequence_sameSettings count)

/-- A step of a constructed block outside reset writes no configuration register, or it accepts a setter. -/
theorem step_settings_cases {t : State} (hc : s.configured = true) (hr : s.inputs.rstN = true)
    (h : step s = .next t) :
    SameSettings s t
    ∨ (s.st = .idle ∧ s.inputs.cmdValid = true
        ∧ ((∃ d, decode s.inputs.cmdWord = .ok (.setdur d) ∧ t = State.respond { s.consume with dur := d } .ok)
          ∨ ∃ m, decode s.inputs.cmdWord = .ok (.setmeth m)
              ∧ t = State.respond { s.consume with method := m } .ok)) := by
  obtain ⟨hr', -⟩ | ⟨-, hb, rfl⟩ | ⟨-, -, -, rfl⟩ | ⟨-, -, -, -, rfl⟩ | ⟨-, hb, hv, i, hd, he⟩ := step_cases h
  · simp [hr] at hr'
  · exact .inl (engineTransition_sameSettings (s := s.consume) hc hb s.inputs)
  · exact .inl ⟨rfl, rfl, rfl, rfl⟩
  · exact .inl ⟨rfl, rfl, rfl, rfl⟩
  · obtain hk | ⟨d, rfl, ht⟩ | ⟨m, rfl, ht⟩ := exec_settings_cases (s := s.consume) hc (decode_wellFormed hd) he
    · exact .inl hk
    · exact .inr ⟨State.idle_of_configured_ready hc hb, hv, .inl ⟨d, hd, ht⟩⟩
    · exact .inr ⟨State.idle_of_configured_ready hc hb, hv, .inr ⟨m, hd, ht⟩⟩

end Settings

/-- Settles O42: the three cases of a constructed block's step, of which each setter changes its register alone. -/
theorem configurationChangesOnlyByItsCommands : Obligations.ConfigurationChangesOnlyByItsCommands := by
  intro s t hc hr h
  obtain ⟨hp, ho, hm, hd⟩ | ⟨hs, hv, ⟨d, hd, rfl⟩ | ⟨m, hm, rfl⟩⟩ := step_settings_cases hc hr h
  · exact ⟨hp, ho, fun hne => absurd hm hne, fun hne => absurd hd hne⟩
  · exact ⟨rfl, rfl, fun hne => absurd rfl hne, fun _ => ⟨hs, hv, hd⟩⟩
  · exact ⟨rfl, rfl, fun _ => ⟨hs, hv, hm⟩, fun hne => absurd rfl hne⟩

end Sys2Proof.Machine

/-! ## The lifecycle (R14) -/

namespace Sys2Proof.Machine

section Lifecycle

variable {s : State}

/-- An error constructs nothing and destroys nothing (R140). -/
@[simp] theorem configured_raise (s : State) (e : Error) : (s.raise e).configured = s.configured := by
  cases hs : s.st <;> simp [State.configured, stateAfterError, hs]

@[simp] theorem configured_emit (s : State) (v : Event) : (s.emit v).configured = s.configured := rfl

@[simp] theorem configured_consume (s : State) : s.consume.configured = s.configured := rfl

theorem configured_startSequence (hc : s.configured = true) (count : Int) :
    (s.startSequence count).configured = true := by
  unfold State.startSequence
  split
  · exact hc
  · split <;> rfl

theorem configured_advance (s : State) : s.advance.configured = true := by
  obtain ⟨-, h⟩ | ⟨-, h⟩ := advance_cases s <;> rw [h] <;> rfl

theorem configured_holdWaitTransition (hc : s.configured = true) (tick : Bool) :
    (holdWaitTransition tick s).configured = true := by
  unfold holdWaitTransition
  split
  · rfl
  · split <;> exact hc

/-- Accepting a command leaves `configured` as it is: INIT sets it with its last operation only (R116). -/
theorem exec_configured {i : Instr} {t : State} (hw : i.wellFormed = true) (h : exec i s = .next t) :
    t.configured = s.configured := by
  obtain ⟨e, rfl, -⟩ | ⟨p, d, m, -, hs, -, rfl⟩ | ⟨d, -, -, rfl⟩ | ⟨m, -, -, rfl⟩ | ⟨count, hc, -, rfl⟩ :=
    exec_cases hw h
  · exact configured_raise s e
  · rw [State.configured_unconf hs]; rfl
  · rfl
  · rfl
  · rw [configured_startSequence hc, hc]

/-- INIT's last operation, answered `ok`, ends the construction (R116). -/
theorem cfgTransition_last (h : s.sub = 3) :
    cfgTransition false s =
      State.respond { s with trace := s.trace ++ [.cfg (s.pinId.get s.sub) .ok],
                             pinOe := s.pinOe.set s.sub true, st := .idle } .ok := by
  rw [cfgTransition_ok, if_neg (by simp [h])]

/-- The sequencer's own transition keeps a constructed block constructed. -/
theorem engineTransition_configured (hc : s.configured = true) (hb : s.busy = true) (i : Inputs) :
    (engineTransition i s).configured = true := by
  obtain ⟨op, -, -, ht⟩ | ⟨hs, -, -⟩ | ⟨hs, -, ht⟩ | ⟨-, -, ht⟩ | ⟨-, ht⟩ | ⟨hs, -, ht⟩ :=
    engineTransition_cases hb (t := engineTransition i s) rfl
  · simp [ht, hc]
  · simp [State.configured_cfg hs] at hc
  · rw [ht, patTransition_ok]; split
    · exact hc
    · rfl
  · rw [ht]; rfl
  · rw [ht]; exact configured_holdWaitTransition hc i.tick
  · rw [ht, offTransition_ok]; split
    · exact hc
    · exact configured_advance _

/-- The sequencer's own transition constructs a block only by INIT's last operation. -/
theorem engineTransition_constructs (hc : s.configured = false) (hb : s.busy = true) {i : Inputs}
    (ht : (engineTransition i s).configured = true) :
    s.st = .cfg ∧ s.sub = 3 ∧ engineTransition i s = cfgTransition false s := by
  have hs : s.st = .cfg := by cases hs : s.st <;> simp [State.configured, State.busy, hs] at hc hb ⊢
  obtain ⟨op, -, -, he⟩ | ⟨-, -, he⟩ | ⟨hs', -, -⟩ | ⟨hs', -, -⟩ | ⟨hs', -⟩ | ⟨hs', -, -⟩ :=
    engineTransition_cases hb (t := engineTransition i s) rfl
  · simp [he, hc] at ht
  · refine ⟨hs, PinPos.eq_last fun hlt => ?_, he⟩
    rw [he, cfgTransition_ok, if_pos hlt, State.configured_cfg (by exact hs)] at ht
    cases ht
  all_goals simp [hs] at hs'

/-- Outside reset a constructed block stays constructed. -/
theorem step_keeps_configured {t : State} (hr : s.inputs.rstN = true) (hc : s.configured = true)
    (h : step s = .next t) : t.configured = true := by
  obtain ⟨hr', -⟩ | ⟨-, hb, rfl⟩ | ⟨-, -, -, rfl⟩ | ⟨-, -, -, -, rfl⟩ | ⟨-, -, -, i, hd, he⟩ := step_cases h
  · simp [hr] at hr'
  · exact engineTransition_configured (s := s.consume) hc hb s.inputs
  · exact hc
  · simpa using hc
  · rw [exec_configured (decode_wellFormed hd) he]; exact hc

/-- A step constructs a block only by INIT's last operation. -/
theorem step_constructs {t : State} (hc : s.configured = false) (h : step s = .next t)
    (ht : t.configured = true) : s.st = .cfg ∧ s.sub = 3 ∧ t = cfgTransition false s.consume := by
  obtain ⟨-, rfl⟩ | ⟨-, hb, rfl⟩ | ⟨-, -, -, rfl⟩ | ⟨-, -, -, -, rfl⟩ | ⟨-, -, -, i, hd, he⟩ := step_cases h
  · cases ht
  · exact engineTransition_constructs (s := s.consume) hc hb ht
  · simp [hc] at ht
  · simp [hc] at ht
  · simp [exec_configured (decode_wellFormed hd) he, hc] at ht

end Lifecycle

/-- Settles O43: the table of `configured`, its value after reset, and the two lemmas on who sets it and that it
stays. -/
theorem lifecycleOfTheDriver : Obligations.LifecycleOfTheDriver := by
  refine ⟨configured_iff, rfl, fun s t h => ⟨fun hr => ?_, fun hr hc => step_keeps_configured hr hc h, ?_⟩⟩
  · rw [step_eq_applyReset hr] at h
    cases h
    rfl
  · intro _ hc ht
    obtain ⟨hs, hsub, rfl⟩ := step_constructs hc h ht
    rw [cfgTransition_last (s := s.consume) hsub]
    exact ⟨hs, hsub, rfl, rfl, rfl⟩

end Sys2Proof.Machine

/-! ## Responses and error flags (R19, R140, R141) -/

namespace Sys2Proof.Machine

/-- What a transition from `s` to `t` answers: nothing, with the flags as they were, or one completion, which sets
the flag of its code (R19, R141). -/
def Answers (s t : State) : Option Completion → Prop
  | none   => t.rspValid = false ∧ t.responses = s.responses ∧ t.err = s.err
  | some c => t.rspValid = true ∧ t.rspCode = c ∧ t.responses = s.responses ++ [c]
      ∧ ∀ e, errGet t.err e = (errGet s.err e || decide (c = .error e))

/-- Setting a flag sets that flag alone (R19). -/
theorem errGet_errSet (f : ErrFlags) (e e' : Error) :
    errGet (errSet f e') e = (errGet f e || decide (e' = e)) := by
  cases e' <;> cases e <;> simp [errGet, errSet]

section Answering

variable {s : State}

/-- An error entry answers its error, whatever registers but the responses and the flags were written before it. -/
theorem raise_answers {u : State} (hs : u.responses = s.responses) (hf : u.err = s.err) (e : Error) :
    Answers s (u.raise e) (some (.error e)) :=
  ⟨rfl, rfl, by simp [hs], fun e' => by simp [errGet_errSet, hf]⟩

/-- The response OK sets no flag. -/
theorem respond_ok_answers {u : State} (hs : u.responses = s.responses) (hf : u.err = s.err) :
    Answers s (u.respond .ok) (some .ok) :=
  ⟨rfl, rfl, by simp [hs], fun e => by simp [hf]⟩

theorem startSequence_answers (hr : s.rspValid = false) (count : Int) :
    ∃ r, Answers s (s.startSequence count) r := by
  unfold State.startSequence
  split
  · exact ⟨_, respond_ok_answers rfl rfl⟩
  · split <;> exact ⟨none, hr, rfl, rfl⟩

theorem advance_answers (hr : s.rspValid = false) : ∃ r, Answers s s.advance r := by
  obtain ⟨-, h⟩ | ⟨-, h⟩ := advance_cases s <;> rw [h]
  · exact ⟨_, respond_ok_answers rfl rfl⟩
  · exact ⟨none, hr, rfl, rfl⟩

theorem holdWaitTransition_answers (hr : s.rspValid = false) (tick : Bool) :
    Answers s (holdWaitTransition tick s) none := by
  unfold holdWaitTransition
  split
  · exact ⟨hr, rfl, rfl⟩
  · split <;> exact ⟨hr, rfl, rfl⟩

theorem engineTransition_answers (hr : s.rspValid = false) (hb : s.busy = true) (i : Inputs) :
    ∃ r, Answers s (engineTransition i s) r := by
  obtain ⟨op, -, -, ht⟩ | ⟨-, -, ht⟩ | ⟨-, -, ht⟩ | ⟨-, -, ht⟩ | ⟨-, ht⟩ | ⟨-, -, ht⟩ :=
    engineTransition_cases hb (t := engineTransition i s) rfl
  · rw [ht]; exact ⟨_, raise_answers (s := s) (u := s.emit _) rfl rfl .ioFailure⟩
  · rw [ht, cfgTransition_ok]; split
    · exact ⟨none, hr, rfl, rfl⟩
    · exact ⟨_, respond_ok_answers rfl rfl⟩
  · rw [ht, patTransition_ok]; split <;> exact ⟨none, hr, rfl, rfl⟩
  · rw [ht]; exact ⟨none, hr, rfl, rfl⟩
  · rw [ht]; exact ⟨none, holdWaitTransition_answers hr i.tick⟩
  · rw [ht, offTransition_ok]; split
    · exact ⟨none, hr, rfl, rfl⟩
    · exact advance_answers (s := { s with trace := _, pinLvl := _ }) hr

theorem exec_answers (hr : s.rspValid = false) {i : Instr} {t : State} (hw : i.wellFormed = true)
    (h : exec i s = .next t) : ∃ r, Answers s t r := by
  obtain ⟨e, rfl, -⟩ | ⟨p, d, m, -, -, -, rfl⟩ | ⟨d, -, -, rfl⟩ | ⟨m, -, -, rfl⟩ | ⟨count, -, -, rfl⟩ :=
    exec_cases hw h
  · exact ⟨_, raise_answers rfl rfl e⟩
  · exact ⟨none, hr, rfl, rfl⟩
  · exact ⟨_, respond_ok_answers rfl rfl⟩
  · exact ⟨_, respond_ok_answers rfl rfl⟩
  · exact startSequence_answers hr count

/-- Outside reset a step answers nothing or one completion (R141). -/
theorem step_answers {t : State} (hr : s.inputs.rstN = true) (h : step s = .next t) : ∃ r, Answers s t r := by
  obtain ⟨hr', -⟩ | ⟨-, hb, rfl⟩ | ⟨-, -, -, rfl⟩ | ⟨-, -, -, -, rfl⟩ | ⟨-, -, -, i, hd, he⟩ := step_cases h
  · simp [hr] at hr'
  · exact engineTransition_answers (s := s.consume) rfl hb s.inputs
  · exact ⟨none, rfl, rfl, rfl⟩
  · exact ⟨_, raise_answers (s := s) (u := s.consume) rfl rfl .illegalCommand⟩
  · exact exec_answers (s := s.consume) rfl (decode_wellFormed hd) he

/-- A flag after a transition is what it was, or set by the response of its code. -/
theorem errGet_of_answers {t : State} {r : Option Completion} (h : Answers s t r) (e : Error) :
    errGet t.err e = (errGet s.err e || (t.rspValid && decide (t.rspCode = .error e))) := by
  cases r with
  | none =>
    obtain ⟨hv, -, he⟩ := h
    simp [hv, he]
  | some c =>
    obtain ⟨hv, hc, -, he⟩ := h
    simp [hv, hc, he]

end Answering

/-- Settles O44: a flag follows what the step answers; reset clears all five. -/
theorem errorFlagsAreSticky : Obligations.ErrorFlagsAreSticky := by
  intro s t h
  constructor
  · intro hr
    obtain ⟨r, ha⟩ := step_answers hr h
    exact errGet_of_answers ha
  · intro hr e
    rw [step_eq_applyReset hr] at h
    cases h
    cases e <;> rfl

end Sys2Proof.Machine

/-! ## The output ports (R10, R26, R42, R130) -/

namespace Sys2Proof.Machine

section Ports

variable {s : State}

theorem outputs_of_active (hr : s.inputs.rstN = true) : s.outputs = s.activeOutputs := by
  simp [State.outputs, hr]

theorem outputs_of_reset (hr : s.inputs.rstN = false) :
    s.outputs = { s.applyReset.activeOutputs with cmdReady := false } := by
  simp [State.outputs, hr]

/-- Bit `c - 1` of `err_sticky` is the flag of code `c` (R19). -/
theorem errBits_getLsbD (f : ErrFlags) :
    (errBits f).getLsbD 0 = f.illegalCommand ∧ (errBits f).getLsbD 1 = f.notPermitted
      ∧ (errBits f).getLsbD 2 = f.configurationError ∧ (errBits f).getLsbD 3 = f.rangeError
      ∧ (errBits f).getLsbD 4 = f.ioFailure := by
  obtain ⟨a, b, c, d, e⟩ := f
  revert a b c d e
  decide

/-- Bit `k` of a group of four is the value of pin `k` (R42). -/
@[simp] theorem quadBits_getLsbD (q : Quad Bool) (k : PinPos) : (quadBits q).getLsbD k.val = q.get k := by
  obtain ⟨a, b, c, d⟩ := q
  revert a b c d k
  decide

theorem levelBit_eq_decide (l : Level) : levelBit l = decide (l = .high) := by
  cases l <;> rfl

/-- Bit `k` of `pin_out` is the level of pin `k` (R42). -/
@[simp] theorem levelBits_getLsbD (q : Quad Level) (k : PinPos) :
    (levelBits q).getLsbD k.val = decide (q.get k = .high) := by
  rw [levelBits, quadBits_getLsbD, ← levelBit_eq_decide]
  fin_cases k <;> rfl

/-- The wires of an issued operation stand on the port in its cycle. -/
theorem outputs_io_of_issuedOp (hr : s.inputs.rstN = true) {op : Option IoOp} (h : s.issuedOp = op) :
    s.outputs.io = ioPort s.cycle op := by
  rw [outputs_of_active hr, ← h]
  rfl

/-- No operation is issued before construction, between commands, or during the hold. -/
theorem issuedOp_eq_none (h : s.st = .unconf ∨ s.st = .idle ∨ s.st = .holdWait) : s.issuedOp = none := by
  obtain hs | hs | hs := h <;> simp [State.issuedOp, hs]

end Ports

/-- Settles O36: each reset value by computation. -/
theorem resetValuesOfTheSpec : Obligations.ResetValuesOfTheSpec :=
  ⟨rfl, rfl, rfl, rfl, rfl, rfl, rfl, rfl⟩

/-- The flags and the pins read zero on their ports at reset (R26). -/
theorem reset_port_bits :
    errBits State.reset.err = 0 ∧ quadBits State.reset.pinOe = 0 ∧ levelBits State.reset.pinLvl = 0 := by
  decide

/-- Settles O35: the next state is `applyReset`, and the outputs are those of the reset state. -/
theorem resetStopsEverything : Obligations.ResetStopsEverything := by
  intro s hr
  refine ⟨⟨_, step_eq_applyReset hr, rfl, rfl, rfl, rfl, rfl, rfl, rfl, rfl, rfl, rfl, rfl⟩, ?_⟩
  rw [outputs_of_reset hr]
  exact ⟨rfl, rfl, rfl, rfl, rfl, rfl, rfl, rfl, reset_port_bits⟩

/-- Settles O52: each port by the lemma on its bits, and the operation's wires by the table of `issuedOp`. -/
theorem outputPortsShowTheRegisters : Obligations.OutputPortsShowTheRegisters := by
  intro s hr
  have io {op : Option IoOp} (h : s.issuedOp = op) := outputs_io_of_issuedOp hr h
  refine ⟨?_, ?_, ?_, ?_, fun hs => ?_, fun hs => ?_, fun hs => ?_, fun hs => ?_, fun hs => ?_⟩
  · rw [outputs_of_active hr]
    exact ⟨by simp [State.activeOutputs, State.cmdReady, hr], rfl, rfl, rfl⟩
  · rw [outputs_of_active hr]
    show completionCode s.rspCode = _
    cases s.rspCode with
    | ok => rfl
    | error e => cases e <;> rfl
  · rw [outputs_of_active hr]
    exact errBits_getLsbD s.err
  · intro k
    rw [outputs_of_active hr]
    exact ⟨levelBits_getLsbD s.pinLvl k, quadBits_getLsbD s.pinOe k⟩
  · rw [io (op := some (.configureOutput (s.pinId.get s.sub))) (by simp [State.issuedOp, hs])]
    rfl
  · rw [io (op := some (.writeLevel (s.pinId.get s.sub) s.patternLevel)) (by simp [State.issuedOp, hs]), ioPort,
      levelBit_eq_decide]
    rfl
  · rw [io (op := some (.hold s.dur)) (by simp [State.issuedOp, hs])]
    rfl
  · rw [io (op := some (.writeLevel (s.pinId.get s.sub) .low)) (by simp [State.issuedOp, hs])]
    rfl
  · rw [io (issuedOp_eq_none hs)]
    exact ⟨rfl, ioPort_kind_ne_three s.cycle none, rfl, rfl⟩

end Sys2Proof.Machine

/-! ## WAVE_DRIVE and FULL_STEP (R43, R100, R122) -/

namespace Sys2Proof.Machine

/-- The state with another stepping method and nothing else changed. -/
def State.withMethod (s : State) (m : Method) : State := { s with method := m }

/-- The two methods give the sequencer the same phases (R41) and the front-end the same counts (R100). -/
structure Interchangeable (c : Config) (m m' : Method) : Prop where
  table : methodTable c.seqRom m = methodTable c.seqRom m'
  counts : quarterSteps c m = quarterSteps c m'

/-- How `u`, reached with the method `m` in place of `s`'s own, relates to `t`, reached from `s`: the method was left
alone and is still the one difference, or it was written and there is none. -/
def EqualButForMethod (s : State) (m : Method) (t u : State) : Prop :=
  (t.method = s.method ∧ u = t.withMethod m) ∨ u = t

theorem Interchangeable.refl (c : Config) (m : Method) : Interchangeable c m m := ⟨rfl, rfl⟩

theorem waveDrive_eq_fullStep {rom : SeqRom} (h : romAdmissible rom = true) : rom.waveDrive = rom.fullStep := by
  simp only [romAdmissible, romFullResolution, Bool.and_eq_true, decide_eq_true_eq] at h
  obtain ⟨⟨-, ⟨htables, -⟩, -⟩, -⟩ := h
  exact htables

/-- With an admissible ROM the full-resolution methods have one table (R43 constraint 3). -/
theorem methodTable_of_fullResolution {rom : SeqRom} (h : romAdmissible rom = true) {m : Method}
    (hm : fullResolution m) : methodTable rom m = rom.fullStep := by
  obtain rfl | rfl := hm
  · exact waveDrive_eq_fullStep h
  · rfl

theorem quarterSteps_of_fullResolution (c : Config) {m : Method} (hm : fullResolution m) :
    quarterSteps c m = c.fullResolutionQuarter := by
  obtain rfl | rfl := hm <;> rfl

theorem interchangeable_of_fullResolution {c : Config} (h : romAdmissible c.seqRom = true) {m m' : Method}
    (hm : fullResolution m) (hm' : fullResolution m') : Interchangeable c m m' :=
  ⟨by rw [methodTable_of_fullResolution h hm, methodTable_of_fullResolution h hm'],
    by rw [quarterSteps_of_fullResolution c hm, quarterSteps_of_fullResolution c hm']⟩

section WithMethod

variable {s : State} {m : Method}

@[simp] theorem withMethod_config (s : State) (m : Method) : (s.withMethod m).config = s.config := rfl
@[simp] theorem withMethod_st (s : State) (m : Method) : (s.withMethod m).st = s.st := rfl
@[simp] theorem withMethod_method (s : State) (m : Method) : (s.withMethod m).method = m := rfl
@[simp] theorem withMethod_sub (s : State) (m : Method) : (s.withMethod m).sub = s.sub := rfl
@[simp] theorem withMethod_tmr (s : State) (m : Method) : (s.withMethod m).tmr = s.tmr := rfl

/-! ### Operations that do not read the method -/

theorem startSequence_withMethod (s : State) (m : Method) (count : Int) :
    (s.withMethod m).startSequence count = (s.startSequence count).withMethod m := by
  unfold State.startSequence
  split
  · rfl
  · split <;> rfl

theorem rotate_withMethod (s : State) (m : Method) (count : Int) :
    (s.withMethod m).rotate count = (s.rotate count).withMethod m := by
  obtain ⟨hc, h⟩ | ⟨hc, hf, h⟩ | ⟨hc, hf, h⟩ := rotate_cases s count <;> rw [h]
  · exact rotate_unconfigured (s := s.withMethod m) hc count
  · exact rotate_out_of_range (s := s.withMethod m) hc hf
  · exact (rotate_in_range (s := s.withMethod m) hc hf).trans (startSequence_withMethod s m count)

theorem advance_withMethod (s : State) (m : Method) : (s.withMethod m).advance = s.advance.withMethod m := by
  have hd : sequenceDone (s.withMethod m) = sequenceDone s := rfl
  unfold State.advance
  rw [hd]
  split <;> rfl

theorem holdWaitTransition_withMethod (tick : Bool) (s : State) (m : Method) :
    holdWaitTransition tick (s.withMethod m) = (holdWaitTransition tick s).withMethod m := by
  unfold holdWaitTransition
  rw [withMethod_tmr]
  split
  · rfl
  · split <;> rfl

theorem cfgTransition_withMethod (s : State) (m : Method) :
    cfgTransition false (s.withMethod m) = (cfgTransition false s).withMethod m := by
  rw [cfgTransition_ok, cfgTransition_ok, withMethod_sub]
  split <;> rfl

theorem offTransition_withMethod (s : State) (m : Method) :
    offTransition false (s.withMethod m) = (offTransition false s).withMethod m := by
  rw [offTransition_ok, offTransition_ok, withMethod_sub]
  split
  · rfl
  · exact advance_withMethod { s with trace := _, pinLvl := _ } m

/-! ### The sequencer reads the method in the pattern alone (R85) -/

theorem patternLevel_withMethod (h : Interchangeable s.config s.method m) :
    (s.withMethod m).patternLevel = s.patternLevel := by
  show (romRead s.config.seqRom m (phaseOf s.idx)).get s.sub = s.patternLevel
  rw [romRead, ← h.table]
  rfl

theorem patTransition_withMethod (h : Interchangeable s.config s.method m) :
    patTransition false (s.withMethod m) = (patTransition false s).withMethod m := by
  rw [patTransition_ok, patTransition_ok, patternLevel_withMethod h, withMethod_sub]
  split <;> rfl

theorem issuedOp_withMethod (h : Interchangeable s.config s.method m) :
    (s.withMethod m).issuedOp = s.issuedOp := by
  unfold State.issuedOp
  rw [patternLevel_withMethod h]
  rfl

theorem engineTransition_withMethod (h : Interchangeable s.config s.method m) (hb : s.busy = true) (i : Inputs) :
    engineTransition i (s.withMethod m) = (engineTransition i s).withMethod m := by
  obtain ⟨op, hop, he, ht⟩ | ⟨hs, he, ht⟩ | ⟨hs, he, ht⟩ | ⟨hs, he, ht⟩ | ⟨hs, ht⟩ | ⟨hs, he, ht⟩ :=
    engineTransition_cases hb (t := engineTransition i s) rfl <;> rw [ht]
  · exact engineTransition_fail ((issuedOp_withMethod h).trans hop) he
  · simp only [engineTransition, withMethod_st, hs, he, cfgTransition_withMethod]
  · simp only [engineTransition, withMethod_st, hs, he, patTransition_withMethod h]
  · simp only [engineTransition, withMethod_st, hs, he]
    rfl
  · simp only [engineTransition, withMethod_st, hs, holdWaitTransition_withMethod]
  · simp only [engineTransition, withMethod_st, hs, he, offTransition_withMethod]

/-! ### What a transition leaves of the difference -/

/-- An operation that commutes with the state's own method as well leaves the method alone. -/
theorem EqualButForMethod.of_commutes (f : State → State) (hs : f (s.withMethod s.method) = (f s).withMethod s.method)
    (hm : f (s.withMethod m) = (f s).withMethod m) : EqualButForMethod s m (f s) (f (s.withMethod m)) :=
  .inl ⟨(congrArg State.method hs :), hm⟩

theorem rotate_equalButForMethod (s : State) (m : Method) {count count' : Int} (hc : count' = count) :
    EqualButForMethod s m (s.rotate count) ((s.withMethod m).rotate count') := by
  subst hc
  exact .of_commutes (·.rotate count') (rotate_withMethod s s.method count') (rotate_withMethod s m count')

/-- INIT overwrites the method, or is refused and leaves it (R115). -/
theorem execInit_withMethod (p : Quad PinId) (d : Word) (m' : Method) {t : State} (h : execInit p d m' s = .next t) :
    ∃ u, execInit p d m' (s.withMethod m) = .next u ∧ EqualButForMethod s m t u := by
  unfold execInit at h ⊢
  split at h
  case isTrue hs => cases h; exact ⟨_, if_pos hs, .inl ⟨rfl, rfl⟩⟩
  case isFalse hs =>
    rw [if_neg (show ¬ (s.withMethod m).st ≠ .unconf from hs)]
    split at h
    case isTrue hp => cases h; exact ⟨_, if_pos hp, .inl ⟨rfl, rfl⟩⟩
    case isFalse hp => cases h; exact ⟨_, if_neg hp, .inr rfl⟩

/-- Of the commands, SETMETH and INIT overwrite the method, the rotations read it in their count alone, and the
others do neither (R100, R115, R122). -/
theorem exec_withMethod (hi : Interchangeable s.config s.method m) {i : Instr} {t : State}
    (h : exec i s = .next t) : ∃ u, exec i (s.withMethod m) = .next u ∧ EqualButForMethod s m t u := by
  cases i with
  | init p d m' => exact execInit_withMethod p d m' h
  | step count =>
    simp only [exec, execStep] at h ⊢
    split at h
    case isTrue hc => cases h; exact ⟨_, if_pos hc, .inl ⟨rfl, rfl⟩⟩
    case isFalse hc =>
      cases h
      exact ⟨_, if_neg hc, .of_commutes (·.startSequence count) (startSequence_withMethod s _ count)
        (startSequence_withMethod s m count)⟩
  | qrot n => cases h; exact ⟨_, rfl, rotate_equalButForMethod s m (by simp [qrotCount, hi.counts])⟩
  | hrot n => cases h; exact ⟨_, rfl, rotate_equalButForMethod s m (by simp [hrotCount, hi.counts])⟩
  | frot n => cases h; exact ⟨_, rfl, rotate_equalButForMethod s m (by simp [frotCount, hi.counts])⟩
  | arot angle =>
    cases h
    exact ⟨_, rfl, rotate_equalButForMethod s m (by simp [arotCount, stepsPerTurn, hi.counts])⟩
  | setdur d =>
    simp only [exec, execSetdur] at h ⊢
    split at h
    case isTrue hc => cases h; exact ⟨_, if_pos hc, .inl ⟨rfl, rfl⟩⟩
    case isFalse hc => cases h; exact ⟨_, if_neg hc, .inl ⟨rfl, rfl⟩⟩
  | setmeth m' =>
    simp only [exec, execSetmeth] at h ⊢
    split at h
    case isTrue hc => cases h; exact ⟨_, if_pos hc, .inl ⟨rfl, rfl⟩⟩
    case isFalse hc => cases h; exact ⟨_, if_neg hc, .inr rfl⟩

/-- A block in an interchangeable method makes the same step, but for the method where the step leaves it. -/
theorem step_withMethod (hi : Interchangeable s.config s.method m) {t : State} (h : step s = .next t) :
    ∃ u, step (s.withMethod m) = .next u ∧ EqualButForMethod s m t u := by
  obtain ⟨hr, rfl⟩ | ⟨hr, hb, rfl⟩ | ⟨hr, hb, hv, rfl⟩ | ⟨hr, hb, hv, ⟨e, hd⟩, rfl⟩ | ⟨hr, hb, hv, i, hd, he⟩ :=
    step_cases h
  · exact ⟨_, step_eq_applyReset (s := s.withMethod m) hr, .inr rfl⟩
  · have commutes {m' : Method} (hi : Interchangeable s.config s.method m') :
        engineTransition s.inputs (s.consume.withMethod m') = (engineTransition s.inputs s.consume).withMethod m' :=
      engineTransition_withMethod (s := s.consume) hi hb s.inputs
    exact ⟨_, step_eq_engineTransition (s := s.withMethod m) hr hb,
      .of_commutes (s := s.consume) (engineTransition s.inputs) (commutes (.refl _ _)) (commutes hi)⟩
  · exact ⟨_, step_eq_consume (s := s.withMethod m) hr hb hv, .inl ⟨rfl, rfl⟩⟩
  · exact ⟨_, step_eq_raise (s := s.withMethod m) hr hb hv hd, .inl ⟨rfl, rfl⟩⟩
  · rw [step_eq_exec (s := s.withMethod m) hr hb hv hd]
    exact exec_withMethod (s := s.consume) hi he

end WithMethod

/-- Settles O51: the two methods are interchangeable under an admissible ROM, so a step leaves the method as the one
difference, or overwrites it in both blocks. -/
theorem fullResolutionMethodsAreIndistinguishable : Obligations.FullResolutionMethodsAreIndistinguishable := by
  intro s t s' hrom ⟨hm, ht⟩ hstep
  have hi : Interchangeable s.config s.method t.method := by
    obtain hm | ⟨hs, ht⟩ := hm
    · rw [← hm]; exact .refl _ _
    · exact interchangeable_of_fullResolution hrom hs ht
  rw [ht]
  obtain ⟨u, hu, ⟨hkept, rfl⟩ | rfl⟩ := step_withMethod hi hstep
  · exact ⟨_, hu, by rw [hkept]; exact hm, rfl⟩
  · exact ⟨_, hu, .inl rfl, rfl⟩

end Sys2Proof.Machine

/-! ## The parameters (R24, R43, R55) -/

namespace Sys2Proof.Machine

/-- Settles O47, case by case of what a step can do. -/
theorem parametersNeverChange : Obligations.ParametersNeverChange := by
  intro s t h
  obtain ⟨-, rfl⟩ | ⟨-, -, rfl⟩ | ⟨-, -, -, rfl⟩ | ⟨-, -, -, -, rfl⟩ | ⟨-, -, -, i, -, he⟩ := step_cases h
  · rfl
  · exact (engineTransition_keeps s.inputs s.consume).1
  · rfl
  · rfl
  · exact (exec_keeps he).1

end Sys2Proof.Machine

/-! ## The pin levels (R47, R51) -/

namespace Sys2Proof.Machine

section PinLevels

variable {s : State}

@[simp] theorem startSequence_pinLvl (s : State) (count : Int) : (s.startSequence count).pinLvl = s.pinLvl := by
  unfold State.startSequence
  split
  · rfl
  · split <;> rfl

@[simp] theorem advance_pinLvl (s : State) : s.advance.pinLvl = s.pinLvl := by
  obtain ⟨-, h⟩ | ⟨-, h⟩ := advance_cases s <;> simp [h]

@[simp] theorem holdWaitTransition_pinLvl (tick : Bool) (s : State) :
    (holdWaitTransition tick s).pinLvl = s.pinLvl := by
  unfold holdWaitTransition
  split
  · rfl
  · split <;> rfl

/-- Configuring a pin drives it and writes no level (R48). -/
@[simp] theorem cfgTransition_ok_pinLvl (s : State) : (cfgTransition false s).pinLvl = s.pinLvl := by
  rw [cfgTransition_ok]
  split <;> rfl

/-- Accepting a command writes no pin: every write is issued in a later transition. -/
theorem exec_pinLvl {i : Instr} {t : State} (hw : i.wellFormed = true) (h : exec i s = .next t) :
    t.pinLvl = s.pinLvl := by
  obtain ⟨e, rfl, -⟩ | ⟨p, d, m, -, -, -, rfl⟩ | ⟨d, -, -, rfl⟩ | ⟨m, -, -, rfl⟩ | ⟨count, -, -, rfl⟩ :=
    exec_cases hw h
  · rfl
  · rfl
  · rfl
  · rfl
  · exact startSequence_pinLvl s count

theorem patTransition_ok_pinLvl (s : State) :
    (patTransition false s).pinLvl = s.pinLvl.set s.sub s.patternLevel := by
  rw [patTransition_ok]
  split <;> rfl

theorem offTransition_ok_pinLvl (s : State) : (offTransition false s).pinLvl = s.pinLvl.set s.sub .low := by
  rw [offTransition_ok]
  split
  · rfl
  · exact advance_pinLvl _

/-- A transition of the sequencer leaves the pins, or is the successful write it has on the operation port. -/
theorem engineTransition_pinLvl (hb : s.busy = true) (i : Inputs) :
    (engineTransition i s).pinLvl = s.pinLvl
    ∨ ∃ v, s.issuedOp = some (.writeLevel (s.pinId.get s.sub) v) ∧ i.ioErr = false
        ∧ (engineTransition i s).pinLvl = s.pinLvl.set s.sub v := by
  obtain ⟨op, -, -, ht⟩ | ⟨-, -, ht⟩ | ⟨hs, he, ht⟩ | ⟨-, -, ht⟩ | ⟨-, ht⟩ | ⟨hs, he, ht⟩ :=
    engineTransition_cases hb (t := engineTransition i s) rfl <;> rw [ht]
  · exact .inl rfl
  · exact .inl (cfgTransition_ok_pinLvl s)
  · exact .inr ⟨s.patternLevel, by simp [State.issuedOp, hs], he, patTransition_ok_pinLvl s⟩
  · exact .inl rfl
  · exact .inl (holdWaitTransition_pinLvl i.tick s)
  · exact .inr ⟨.low, by simp [State.issuedOp, hs], he, offTransition_ok_pinLvl s⟩

end PinLevels

/-- Settles O48: only the sequencer's own transition writes a pin, and the trace records the operation issued. -/
theorem pinLevelsChangeOnlyByWrites : Obligations.PinLevelsChangeOnlyByWrites := by
  intro s t hr h
  obtain ⟨hr', -⟩ | ⟨-, hb, rfl⟩ | ⟨-, -, -, rfl⟩ | ⟨-, -, -, -, rfl⟩ | ⟨-, -, -, i, hd, he⟩ := step_cases h
  · simp [hr] at hr'
  · obtain hk | ⟨v, hop, he, hl⟩ := engineTransition_pinLvl (s := s.consume) hb s.inputs
    · exact .inl hk
    · refine .inr ⟨s.sub, v, hl, ?_⟩
      rw [engineTransition_trace s.inputs (s := s.consume) hb, hop, he]
      rfl
  · exact .inl rfl
  · exact .inl rfl
  · exact .inl (exec_pinLvl (s := s.consume) (decode_wellFormed hd) he)

end Sys2Proof.Machine

/-! ## The default contents of the sequence ROM (R43 to R45) -/

namespace Sys2Proof.Machine

theorem defaultRom_admissible : romAdmissible defaultRom = true := by decide

/-- Whatever the ROM, the addresses with `m = 3` hold nothing (R45). -/
theorem romWord_eq_none (rom : SeqRom) {addr : BitVec 5} (h : addr.extractLsb' 3 2 = 3) : romWord rom addr = none := by
  rw [romWord, h]
  rfl

/-- The addresses from 24 on are those with `m = 3`. -/
theorem method_bits_from_24 : ∀ p, p < 8 → (BitVec.ofNat 5 (24 + p)).extractLsb' 3 2 = 3 := by decide

/-- Settles O37: the three columns by computation, and the addresses past them for every ROM. -/
theorem defaultRomMeetsItsConstraints : Obligations.DefaultRomMeetsItsConstraints :=
  ⟨defaultRom_admissible, by decide, by decide, by decide, fun p hp => romWord_eq_none _ (method_bits_from_24 p hp)⟩

end Sys2Proof.Machine

/-! ## The words of each command (R60 to R68) -/

namespace Sys2Proof

/-- What the fields of a word other than `op` and `rsv` must hold for the word to be the given command's: the
operands, and zero in each field the command's format does not use (R61, R63 to R66). -/
def OperandFields (w : CommandWord) : Instr → Prop
  | .init pins dur m => methodOfCode (methField w) = some m ∧ hiField w = dur ∧ pinsOfWord (loField w) = pins
  | .step count      => methField w = 0 ∧ hiField w = 0 ∧ (loField w).toInt = count
  | .qrot n          => methField w = 0 ∧ hiField w = 0 ∧ (loField w).toInt = n
  | .hrot n          => methField w = 0 ∧ hiField w = 0 ∧ (loField w).toInt = n
  | .frot n          => methField w = 0 ∧ hiField w = 0 ∧ (loField w).toInt = n
  | .arot angle      => methField w = 0 ∧ hiField w = 0 ∧ (loField w).toInt = angle
  | .setdur d        => methField w = 0 ∧ hiField w = 0 ∧ loField w = d
  | .setmeth m       => methodOfCode (methField w) = some m ∧ hiField w = 0 ∧ loField w = 0

/-- The fields of a word are those of the given command. -/
def FieldsOf (w : CommandWord) (i : Instr) : Prop :=
  rsvField w = 0 ∧ opField w = opcode i ∧ OperandFields w i

section Fields

variable {w : CommandWord}

/-- What a format I word decodes to (R61, R63). -/
theorem decodeInit_eq_ok {i : Instr} :
    decodeInit w = .ok i ↔
      ∃ m, methodOfCode (methField w) = some m ∧ .init (pinsOfWord (loField w)) (hiField w) m = i := by
  unfold decodeInit
  cases methodOfCode (methField w) <;> simp

/-- What a format M word decodes to (R61, R65). -/
theorem decodeSetmeth_eq_ok {i : Instr} :
    decodeSetmeth w = .ok i ↔
      ∃ m, methodOfCode (methField w) = some m ∧ hiField w = 0 ∧ loField w = 0 ∧ .setmeth m = i := by
  unfold decodeSetmeth
  cases methodOfCode (methField w) with
  | none => simp
  | some m =>
    simp only [Option.some.injEq, exists_eq_left']
    split
    case isTrue h => exact iff_of_false nofun fun ⟨hh, hl, _⟩ => h.elim (absurd hh) (absurd hl)
    case isFalse h =>
      obtain ⟨hh, hl⟩ := not_or.mp h
      simp [not_not.mp hh, not_not.mp hl]

/-- Each branch of the decoder reads the fields of the command it answers (R68). -/
theorem fieldsOf_of_decode {i : Instr} (h : decode w = .ok i) : FieldsOf w i := by
  unfold decode at h
  split at h
  case isTrue => cases h
  case isFalse hr =>
  refine ⟨not_not.mp hr, ?_⟩
  split at h
  case isTrue ho =>
    obtain ⟨m, hm, rfl⟩ := decodeInit_eq_ok.mp h
    exact ⟨ho, hm, rfl, rfl⟩
  iterate 6
    split at h
    case' isTrue ho =>
      obtain ⟨hm, hh, rfl⟩ := decodeArgument_eq_ok.mp h
      exact ⟨ho, hm, hh, rfl⟩
  split at h
  case isTrue ho =>
    obtain ⟨m, hm, hh, hl, rfl⟩ := decodeSetmeth_eq_ok.mp h
    exact ⟨ho, hm, hh, hl⟩
  case isFalse => cases h

theorem decode_of_fieldsOf {i : Instr} (h : FieldsOf w i) : decode w = .ok i := by
  obtain ⟨hr, ho, hf⟩ := h
  cases i with
  | init pins dur m =>
    obtain ⟨hm, rfl, rfl⟩ := hf
    simpa [decode, hr, ho, opcode] using decodeInit_eq_ok.mpr ⟨m, hm, rfl⟩
  | setmeth m =>
    obtain ⟨hm, hh, hl⟩ := hf
    simpa [decode, hr, ho, opcode] using decodeSetmeth_eq_ok.mpr ⟨m, hm, hh, hl, rfl⟩
  | _ => simpa [decode, hr, ho, opcode, decodeArgument_eq_ok, OperandFields] using hf

/-- The decoder as a table: a word decodes to a command exactly when its fields are that command's (R68). -/
theorem decode_eq_ok_iff {i : Instr} : decode w = .ok i ↔ FieldsOf w i :=
  ⟨fieldsOf_of_decode, decode_of_fieldsOf⟩

/-- The fields of a command determine its word: the encoder's (R60, R65). -/
theorem encode_eq_of_fieldsOf {i : Instr} (h : FieldsOf w i) : encode i = w := by
  obtain ⟨hr, ho, hf⟩ := h
  rw [← packWord_fields w, hr, ho]
  cases i with
  | init pins dur m =>
    obtain ⟨hm, rfl, rfl⟩ := hf
    simp [encode, opcode, methodCode_of_methodOfCode hm]
  | setmeth m =>
    obtain ⟨hm, hh, hl⟩ := hf
    simp [encode, opcode, methodCode_of_methodOfCode hm, hh, hl]
  | _ =>
    obtain ⟨hm, hh, rfl⟩ := hf
    simp [encode, opcode, hm, hh]

end Fields

/-- The family of Laws/PerInstr.lean, of every command: its word carries its opcode and a zero reserved field. -/
theorem header_encode : ∀ i : Instr, Laws.OpcodeField.Statement i
  | .init pins dur m => Laws.OpcodeField.init pins dur m
  | .step count      => Laws.OpcodeField.step count
  | .qrot n          => Laws.OpcodeField.qrot n
  | .hrot n          => Laws.OpcodeField.hrot n
  | .frot n          => Laws.OpcodeField.frot n
  | .arot angle      => Laws.OpcodeField.arot angle
  | .setdur d        => Laws.OpcodeField.setdur d
  | .setmeth m       => Laws.OpcodeField.setmeth m

/-- The word of a well-formed command carries that command's fields: each operand survives its field (R63 to R66). -/
theorem fieldsOf_encode {i : Instr} (h : i.wellFormed = true) : FieldsOf (encode i) i := by
  obtain ⟨ho, hr⟩ := header_encode i
  refine ⟨hr, ho, ?_⟩
  cases i with
  | init pins dur m => simp [OperandFields, encode]
  | setdur d => simp [OperandFields, encode]
  | setmeth m => simp [OperandFields, encode]
  | _ => simp [OperandFields, encode, toInt_ofInt_of_fits h]

/-- Settles O1: the encoder writes the command's fields, and a word with a command's fields decodes to it. -/
theorem decodeOfEncodeIsIdentity : Obligations.DecodeOfEncodeIsIdentity := fun _ hw =>
  decode_of_fieldsOf (fieldsOf_encode hw)

/-- Settles O2: a word that decodes has the command's fields, and these determine the word. -/
theorem eachLegalWordHasOneMeaning : Obligations.EachLegalWordHasOneMeaning := fun _ _ h =>
  ⟨decode_wellFormed h, encode_eq_of_fieldsOf (fieldsOf_of_decode h)⟩

end Sys2Proof

/-! ## Illegal words (R65 to R67) -/

namespace Sys2Proof

section Rejected

variable {w : CommandWord}

theorem decodeArgument_error_iff {mk : Word → Instr} :
    (∃ e, decodeArgument w mk = .error e) ↔ methField w ≠ 0 ∨ hiField w ≠ 0 := by
  unfold decodeArgument
  split <;> simp_all

theorem decodeInit_error_iff : (∃ e, decodeInit w = .error e) ↔ methField w = 3 := by
  rw [← methodOfCode_eq_none]
  unfold decodeInit
  cases methodOfCode (methField w) <;> simp

theorem decodeSetmeth_error_iff :
    (∃ e, decodeSetmeth w = .error e) ↔ (hiField w ≠ 0 ∨ loField w ≠ 0) ∨ methField w = 3 := by
  rw [← methodOfCode_eq_none]
  unfold decodeSetmeth
  cases methodOfCode (methField w) with
  | none => simp
  | some m =>
    simp only [reduceCtorEq, or_false]
    split
    case isTrue h => simpa using h
    case isFalse h => simpa using h

/-- The clauses of R67, over the named fields (R60). -/
theorem decode_error_iff :
    (∃ e, decode w = .error e) ↔
      (opField w = 0 ∨ 9 ≤ (opField w).toNat)
      ∨ rsvField w ≠ 0
      ∨ ((2 ≤ (opField w).toNat ∧ (opField w).toNat ≤ 7) ∧ (methField w ≠ 0 ∨ hiField w ≠ 0))
      ∨ (opField w = 8 ∧ (hiField w ≠ 0 ∨ loField w ≠ 0))
      ∨ ((opField w = 1 ∨ opField w = 8) ∧ methField w = 3) := by
  unfold decode
  split
  case isTrue hr => exact iff_of_true ⟨_, rfl⟩ (.inr (.inl hr))
  case isFalse hr =>
  split
  case isTrue ho => simp [ho, not_not.mp hr, decodeInit_error_iff]
  iterate 6
    split
    case' isTrue ho => simp [ho, not_not.mp hr, decodeArgument_error_iff]
  split
  case isTrue ho => simp [ho, not_not.mp hr, decodeSetmeth_error_iff]
  case isFalse =>
    have hres : opField w = 0 ∨ 9 ≤ (opField w).toNat := by bv_omega
    exact iff_of_true ⟨_, rfl⟩ (.inl hres)

end Rejected

/-- Settles O3: the named fields are the slices of the rule. -/
theorem illegalWordsAreThoseOfTheRule : Obligations.IllegalWordsAreThoseOfTheRule := fun _ => decode_error_iff

end Sys2Proof

/-! ## The rows of the opcode table (R62) -/

namespace Sys2Proof

/-- Every code but 3 names a method (R66). -/
theorem exists_methodOfCode_iff {c : BitVec 2} : (∃ m, methodOfCode c = some m) ↔ c ≠ 3 := by
  rw [← Option.ne_none_iff_exists', ne_eq, methodOfCode_eq_none]

section Rows

variable (w : CommandWord)

/-- The mask of a format A row covers every field but `lo`. -/
theorem and_argumentMask_eq_iff (op : BitVec 4) :
    w &&& 0xFFFFFFFFFF00000000#72 = packWord op 0 0 0 0 ↔
      opField w = op ∧ methField w = 0 ∧ rsvField w = 0 ∧ hiField w = 0 := by
  have hmask : 0xFFFFFFFFFF00000000#72
      = packWord (BitVec.allOnes 4) (BitVec.allOnes 2) (BitVec.allOnes 2) (BitVec.allOnes 32) 0 := by decide
  simp [hmask, and_eq_iff_fields, -BitVec.reduceAllOnes]

/-- The mask of the INIT row covers `op` and `rsv`. -/
theorem and_initMask_eq_iff (op : BitVec 4) :
    w &&& 0xF30000000000000000#72 = packWord op 0 0 0 0 ↔ opField w = op ∧ rsvField w = 0 := by
  have hmask : 0xF30000000000000000#72 = packWord (BitVec.allOnes 4) 0 (BitVec.allOnes 2) 0 0 := by decide
  simp [hmask, and_eq_iff_fields, -BitVec.reduceAllOnes]

/-- The mask of the SETMETH row covers every field but `meth`. -/
theorem and_setmethMask_eq_iff (op : BitVec 4) :
    w &&& 0xF3FFFFFFFFFFFFFFFF#72 = packWord op 0 0 0 0 ↔
      opField w = op ∧ rsvField w = 0 ∧ hiField w = 0 ∧ loField w = 0 := by
  have hmask : 0xF3FFFFFFFFFFFFFFFF#72
      = packWord (BitVec.allOnes 4) 0 (BitVec.allOnes 2) (BitVec.allOnes 32) (BitVec.allOnes 32) := by decide
  simp [hmask, and_eq_iff_fields, -BitVec.reduceAllOnes]

/-- A format A row: the command `mk`, whose operand is what `read` makes of `lo`, is selected by its opcode under
the format's mask. -/
theorem argumentRow_iff {α : Type} (mk : α → Instr) (read : Word → α) {op : BitVec 4}
    (hop : ∀ a, opcode (mk a) = op)
    (hmk : ∀ a, OperandFields w (mk a) ↔ methField w = 0 ∧ hiField w = 0 ∧ read (loField w) = a) :
    (∃ a, decode w = .ok (mk a)) ↔ w &&& 0xFFFFFFFFFF00000000#72 = packWord op 0 0 0 0 := by
  simp only [decode_eq_ok_iff, FieldsOf, hop, hmk, and_argumentMask_eq_iff]
  constructor
  · rintro ⟨a, hr, ho, hm, hh, -⟩
    exact ⟨ho, hm, hr, hh⟩
  · rintro ⟨ho, hm, hr, hh⟩
    exact ⟨_, hr, ho, hm, hh, rfl⟩

theorem initRow_iff :
    (∃ pins d m, decode w = .ok (.init pins d m)) ↔
      w &&& 0xF30000000000000000#72 = packWord 1 0 0 0 0 ∧ methField w ≠ 3 := by
  simp only [decode_eq_ok_iff, FieldsOf, opcode, OperandFields, and_initMask_eq_iff, ← exists_methodOfCode_iff]
  constructor
  · rintro ⟨pins, d, m, hr, ho, hm, -, -⟩
    exact ⟨⟨ho, hr⟩, m, hm⟩
  · rintro ⟨⟨ho, hr⟩, m, hm⟩
    exact ⟨_, _, m, hr, ho, hm, rfl, rfl⟩

theorem setmethRow_iff :
    (∃ m, decode w = .ok (.setmeth m)) ↔
      w &&& 0xF3FFFFFFFFFFFFFFFF#72 = packWord 8 0 0 0 0 ∧ methField w ≠ 3 := by
  simp only [decode_eq_ok_iff, FieldsOf, opcode, OperandFields, and_setmethMask_eq_iff, ← exists_methodOfCode_iff]
  constructor
  · rintro ⟨m, hr, ho, hm, hh, hl⟩
    exact ⟨⟨ho, hr, hh, hl⟩, m, hm⟩
  · rintro ⟨⟨ho, hr, hh, hl⟩, m, hm⟩
    exact ⟨m, hr, ho, hm, hh, hl⟩

end Rows

/-- Settles O4: each row's pattern is its opcode packed with zeros; the reserved opcodes are R67's. -/
theorem opcodeRowsSelectTheirCommands : Obligations.OpcodeRowsSelectTheirCommands := fun w =>
  ⟨initRow_iff w,
    argumentRow_iff w .step BitVec.toInt (fun _ => rfl) fun _ => Iff.rfl,
    argumentRow_iff w .qrot BitVec.toInt (fun _ => rfl) fun _ => Iff.rfl,
    argumentRow_iff w .hrot BitVec.toInt (fun _ => rfl) fun _ => Iff.rfl,
    argumentRow_iff w .frot BitVec.toInt (fun _ => rfl) fun _ => Iff.rfl,
    argumentRow_iff w .arot BitVec.toInt (fun _ => rfl) fun _ => Iff.rfl,
    argumentRow_iff w .setdur id (fun _ => rfl) fun _ => Iff.rfl,
    setmethRow_iff w,
    fun h => decode_error_iff.mpr (.inl h)⟩

/-- Settles O5: the decoder computes on the eight words. -/
theorem wordsOfTheSpecDecode : Obligations.WordsOfTheSpecDecode :=
  ⟨by decide, by decide, by decide, by decide, by decide, by decide, by decide, by decide⟩

end Sys2Proof

/-! ## Every step answers (R68, R131, R168) -/

namespace Sys2Proof.Machine

/-- Settles O34: by the cases of a step; the decoder is total and every command answers. -/
theorem everyStepAnswersNext : Obligations.EveryStepAnswersNext := by
  intro s
  cases hr : s.inputs.rstN with
  | false => exact ⟨_, step_eq_applyReset hr⟩
  | true =>
    cases hb : s.busy with
    | true => exact ⟨_, step_eq_engineTransition hr hb⟩
    | false =>
      cases hv : s.inputs.cmdValid with
      | false => exact ⟨_, step_eq_consume hr hb hv⟩
      | true =>
        cases hd : decode s.inputs.cmdWord with
        | error e => exact ⟨_, step_eq_raise hr hb hv hd⟩
        | ok i =>
          obtain ⟨t, ht⟩ := exec_next i s.consume
          exact ⟨t, (step_eq_exec hr hb hv hd).trans ht⟩

end Sys2Proof.Machine

/-! ## The transitions of a step sequence, whole states (R80 to R89) -/

namespace Sys2Proof.Machine

/-- What a successful write of the level `v` to the pin `SUB` leaves, before the sequencer goes on (R47). -/
def State.written (v : Level) (s : State) : State :=
  { s.consume with trace := s.trace ++ [.wr (s.pinId.get s.sub) v .ok], pinLvl := s.pinLvl.set s.sub v }

section Transitions

variable {s : State}

/-! Which transition a state makes depends on `ST` alone. -/

theorem engineTransition_pat (i : Inputs) (hs : s.st = .pat) : engineTransition i s = patTransition i.ioErr s := by
  simp [engineTransition, hs]

theorem engineTransition_holdStart (i : Inputs) (hs : s.st = .holdStart) :
    engineTransition i s = holdStartTransition i.ioErr s := by simp [engineTransition, hs]

theorem engineTransition_holdWait (i : Inputs) (hs : s.st = .holdWait) :
    engineTransition i s = holdWaitTransition i.tick s := by simp [engineTransition, hs]

theorem engineTransition_off (i : Inputs) (hs : s.st = .off) : engineTransition i s = offTransition i.ioErr s := by
  simp [engineTransition, hs]

/-- In `S_PAT`, before the fourth pin (R85). -/
theorem step_pat_next (hs : s.st = .pat) (hr : s.inputs.rstN = true) (he : s.inputs.ioErr = false)
    (hk : s.sub.val < 3) :
    step s = .next { s.written s.patternLevel with sub := s.sub + 1 } := by
  rw [step_eq_engineTransition hr (State.busy_pat hs), engineTransition_pat (s := s.consume) _ hs, he,
    patTransition_ok, State.consume_sub, if_pos hk]
  rfl

/-- In `S_PAT`, at the fourth pin (R85). -/
theorem step_pat_last (hs : s.st = .pat) (hr : s.inputs.rstN = true) (he : s.inputs.ioErr = false)
    (hk : ¬ s.sub.val < 3) :
    step s = .next { s.written s.patternLevel with st := .holdStart } := by
  rw [step_eq_engineTransition hr (State.busy_pat hs), engineTransition_pat (s := s.consume) _ hs, he,
    patTransition_ok, State.consume_sub, if_neg hk]
  rfl

/-- In `S_HOLD_START` (R89). -/
theorem step_holdStart (hs : s.st = .holdStart) (hr : s.inputs.rstN = true) (he : s.inputs.ioErr = false) :
    step s = .next { s.consume with trace := s.trace ++ [.hold s.dur .ok], tmr := s.dur, st := .holdWait } := by
  rw [step_eq_engineTransition hr (State.busy_holdStart hs), engineTransition_holdStart (s := s.consume) _ hs, he,
    holdStartTransition_ok]
  rfl

/-- In `S_HOLD_WAIT`, when no time is left (R89). -/
theorem step_holdWait_end (hs : s.st = .holdWait) (hr : s.inputs.rstN = true) (h0 : s.tmr = 0) :
    step s = .next { s.consume with sub := 0, st := .off } := by
  rw [step_eq_engineTransition hr (State.busy_holdWait hs), engineTransition_holdWait (s := s.consume) _ hs,
    holdWaitTransition, State.consume_tmr, if_pos h0]
  rfl

/-- In `S_HOLD_WAIT`, when time is left and a tick is seen (R89). -/
theorem step_holdWait_tick (hs : s.st = .holdWait) (hr : s.inputs.rstN = true) (h0 : s.tmr ≠ 0)
    (ht : s.inputs.tick = true) : step s = .next { s.consume with tmr := s.tmr - 1 } := by
  rw [step_eq_engineTransition hr (State.busy_holdWait hs), engineTransition_holdWait (s := s.consume) _ hs,
    holdWaitTransition, State.consume_tmr, if_neg h0, if_pos ht]

/-- In `S_HOLD_WAIT`, when time is left and no tick is seen (R89). -/
theorem step_holdWait_idle (hs : s.st = .holdWait) (hr : s.inputs.rstN = true) (h0 : s.tmr ≠ 0)
    (ht : s.inputs.tick = false) : step s = .next s.consume := by
  rw [step_eq_engineTransition hr (State.busy_holdWait hs), engineTransition_holdWait (s := s.consume) _ hs,
    holdWaitTransition, State.consume_tmr, if_neg h0, if_neg (by simp [ht])]

/-- In `S_OFF`, before the fourth pin (R87). -/
theorem step_off_next (hs : s.st = .off) (hr : s.inputs.rstN = true) (he : s.inputs.ioErr = false)
    (hk : s.sub.val < 3) :
    step s = .next { s.written .low with sub := s.sub + 1 } := by
  rw [step_eq_engineTransition hr (State.busy_off hs), engineTransition_off (s := s.consume) _ hs, he,
    offTransition_ok, State.consume_sub, if_pos hk]
  rfl

/-- In `S_OFF`, at the fourth pin (R87). -/
theorem step_off_last (hs : s.st = .off) (hr : s.inputs.rstN = true) (he : s.inputs.ioErr = false)
    (hk : ¬ s.sub.val < 3) :
    step s = .next (s.written .low).advance := by
  rw [step_eq_engineTransition hr (State.busy_off hs), engineTransition_off (s := s.consume) _ hs, he,
    offTransition_ok, State.consume_sub, if_neg hk]
  rfl

/-- The sequence is done when the next index is 0, descending, or the limit, ascending (R88). -/
theorem sequenceDone_iff (s : State) :
    sequenceDone s = true ↔
      (s.dir = .descending ∧ nextIdx s = 0) ∨ (s.dir = .ascending ∧ nextIdx s = s.limit) := by
  cases hd : s.dir <;> simp [sequenceDone, hd]

/-- `Advance()` at the end of a sequence (R88). -/
theorem advance_of_done (h : sequenceDone s = true) :
    s.advance = State.respond { s with idx := nextIdx s, st := .idle } .ok := by
  rw [State.advance, if_pos h]

/-- `Advance()` inside a sequence (R88). -/
theorem advance_of_not_done (h : sequenceDone s = false) :
    s.advance = { s with idx := nextIdx s, sub := 0, st := .pat } := by
  rw [State.advance, if_neg (by simp [h])]

/-- A state that issues an operation is busy. -/
theorem busy_of_issuedOp {op : IoOp} (h : s.issuedOp = some op) : s.busy = true := by
  cases hs : s.st <;> simp [State.issuedOp, State.busy, hs] at h ⊢

/-- Whichever operation fails, the step leaves `operationFailed` (R136, R140). -/
theorem step_eq_operationFailed {op : IoOp} (hop : s.issuedOp = some op) (hr : s.inputs.rstN = true)
    (he : s.inputs.ioErr = true) :
    step s = .next { operationFailed s op with script := s.script.tail, cycle := s.cycle + 1 } := by
  have hst : stateAfterError s.st = if s.st = .cfg then .unconf else .idle := by
    cases hs : s.st <;> simp [State.issuedOp, stateAfterError, hs] at hop ⊢
  rw [step_eq_engineTransition hr (busy_of_issuedOp hop), engineTransition_fail (s := s.consume) hop he]
  simp only [State.raise, State.emit, State.respond, State.consume, operationFailed, errSet, hst]

/-- The start of a sequence, written out: for every count, as the two ways of storing a positive one agree
(R82, R83). -/
theorem startSequence_eq_sequenceStarted (s : State) (count : Int) :
    s.startSequence count = sequenceStarted s count := by
  obtain hc | rfl | hc := lt_trichotomy count 0
  · simp [startSequence_neg s hc, sequenceStarted, hc.ne, hc.not_gt]
  · rfl
  · simp [startSequence_pos s hc, sequenceStarted, hc.ne', hc, ofInt_eq_ofNat_natAbs hc]

/-- STEP on a constructed block starts its sequence (R80). -/
theorem exec_step_eq (hc : s.configured = true) (count : Int) :
    exec (.step count) s = .next (sequenceStarted s count) := by
  simp [exec, execStep, hc, startSequence_eq_sequenceStarted]

/-- A rotation of count 0 only responds (R83). -/
theorem rotate_zero (hc : s.configured = true) : s.rotate 0 = s.respond .ok := by
  rw [rotate_in_range hc (by decide), startSequence_zero]

end Transitions

/-- Settles O11: STEP has no range check, so it starts the sequence of every count. -/
theorem stepStartsItsSequence : Obligations.StepStartsItsSequence :=
  fun _ count hc _ => exec_step_eq hc count

/-- Settles O12: the operand 0 gives each rotation command the count 0, whatever the method. -/
theorem zeroCountChangesNothing : Obligations.ZeroCountChangesNothing := by
  intro s i hc hi
  have rotated {count : Int} (h0 : count = 0) :
      s.rotate count = { s with rspValid := true, rspCode := .ok, responses := s.responses ++ [.ok] } := by
    rw [h0, rotate_zero hc, State.respond]
  simp only [List.mem_cons, List.not_mem_nil, or_false] at hi
  obtain rfl | rfl | rfl | rfl | rfl := hi
  · exact exec_step_eq hc 0
  · exact congrArg _ (rotated (by simp [qrotCount]))
  · exact congrArg _ (rotated (by simp [hrotCount]))
  · exact congrArg _ (rotated (by simp [frotCount]))
  · exact congrArg _ (rotated (by simp [arotCount, truncdiv]))

/-- Settles O20: an `ok` answer by the two branches of `S_PAT`, a failed one by error entry. -/
theorem patternWriteTransition : Obligations.PatternWriteTransition := by
  intro s hs hr
  refine ⟨fun he => ?_, step_eq_operationFailed (by simp only [State.issuedOp, hs]; rfl) hr⟩
  by_cases hk : s.sub.val < 3
  · simp only [step_pat_next hs hr he hk, hk, if_true, ← hs]
    rfl
  · simp only [step_pat_last hs hr he hk, hk, if_false]
    rfl

/-- Settles O21: the transitions of the two hold states, and error entry for a hold that fails. -/
theorem holdTransitions : Obligations.HoldTransitions := fun _ hr =>
  ⟨fun hs he => step_holdStart hs hr he, fun hs => step_eq_operationFailed (by simp [State.issuedOp, hs]) hr,
    fun hs => step_holdWait_end hs hr, fun hs => step_holdWait_tick hs hr, fun hs => step_holdWait_idle hs hr⟩

/-- Settles O22: before the fourth pin the next one follows, after it `Advance()` decides by the new index. -/
theorem deenergizeTransition : Obligations.DeenergizeTransition := by
  intro s hs hr
  refine ⟨fun he hk => step_off_next hs hr he hk, fun he hk j hdn hup => ?_,
    step_eq_operationFailed (by simp [State.issuedOp, hs]) hr⟩
  have hj : nextIdx s = j := by
    cases hd : s.dir with
    | descending => simp [nextIdx, hd, hdn hd]
    | ascending => simp [nextIdx, hd, hup hd]
  have hD : s.pinId.d = s.pinId.get s.sub := by rw [hk]; rfl
  rw [step_off_last hs hr he (by simp [hk]), ← hj, hD, ← hk]
  by_cases hd : sequenceDone s = true
  · rw [if_pos ((sequenceDone_iff s).mp hd), advance_of_done (s := s.written .low) hd]
    rfl
  · rw [if_neg (mt (sequenceDone_iff s).mpr hd), advance_of_not_done (s := s.written .low) (eq_false_of_ne_true hd)]
    rfl

end Sys2Proof.Machine

/-! ## What a command has still to emit and to wait for (R84 to R93, R116) -/

namespace Sys2Proof

/-- Before the last pin, the pins from `k` on are `k` and those from the next one on. -/
theorem pinsFrom_of_lt {k : PinPos} (h : k.val < 3) : Machine.pinsFrom k = k :: Machine.pinsFrom (k + 1) := by
  rw [Machine.pinsFrom, Machine.pinsFrom, PinPos.val_succ h]
  fin_cases k <;> rfl

/-- At the last pin it is the only one left. -/
theorem pinsFrom_last {k : PinPos} (h : ¬ k.val < 3) : Machine.pinsFrom k = [k] := by
  rw [PinPos.eq_last h]
  rfl

namespace Machine

theorem get_allLow (k : PinPos) : allLow.get k = .low := by
  fin_cases k <;> rfl

/-! ### The indices of a sequence (R84, R88) -/

/-- The indices from `i` down to 1. -/
theorem range_map_sub_succ (n : Nat) :
    (List.range (n + 1)).map (fun j => n + 1 - j) = (n + 1) :: (List.range n).map fun j => n - j := by
  simp [List.range_succ_eq_map, Function.comp_def]

/-- The indices from `i` up, `n + 1` of them. -/
theorem range_map_add_succ (i n : Nat) :
    (List.range (n + 1)).map (fun j => i + j) = i :: (List.range n).map fun j => i + 1 + j := by
  simp [List.range_succ_eq_map, Function.comp_def, Nat.add_assoc, Nat.add_comm 1]

section Sequence

variable {s : State}

/-- A sequence that is done has no index left. -/
theorem laterIndices_of_done (hx : IndexInRange s.dir s.idx s.limit) (hd : sequenceDone s = true) :
    laterIndices s = [] := by
  cases h : s.dir with
  | descending =>
    have h1 : s.idx.toNat - 1 = 0 := by
      simp only [h, IndexInRange, sequenceDone, nextIdx, decide_eq_true_eq] at hx hd
      bv_omega
    simp [laterIndices, h, h1]
  | ascending =>
    have h1 : s.limit.toNat - (s.idx.toNat + 1) = 0 := by
      simp only [h, IndexInRange, sequenceDone, nextIdx, decide_eq_true_eq] at hx hd
      bv_omega
    simp [laterIndices, h, h1]

/-- Otherwise the next index comes first, and then the indices later than it. -/
theorem laterIndices_of_not_done (hx : IndexInRange s.dir s.idx s.limit) (hd : sequenceDone s = false) :
    laterIndices s = (nextIdx s).toNat :: laterIndices s.advance := by
  rw [advance_of_not_done hd]
  cases h : s.dir with
  | descending =>
    obtain ⟨h1, h2⟩ : (s.idx - 1).toNat = s.idx.toNat - 1 ∧ s.idx.toNat - 1 = s.idx.toNat - 1 - 1 + 1 := by
      simp only [h, IndexInRange, sequenceDone, nextIdx, decide_eq_false_iff_not] at hx hd
      bv_omega
    simp only [laterIndices, h, nextIdx, h1]
    rw [h2, range_map_sub_succ]
    rfl
  | ascending =>
    obtain ⟨h1, h2⟩ : (s.idx + 1).toNat = s.idx.toNat + 1 ∧
        s.limit.toNat - (s.idx.toNat + 1) = s.limit.toNat - (s.idx.toNat + 1 + 1) + 1 := by
      simp only [h, IndexInRange, sequenceDone, nextIdx, decide_eq_false_iff_not] at hx hd
      bv_omega
    simp only [laterIndices, h, nextIdx, h1]
    rw [h2, range_map_add_succ]

/-- After `Advance()` the elementary steps still to come are those that came later before it (R88). -/
theorem remainingEvents_advance (hx : IndexInRange s.dir s.idx s.limit) :
    remainingEvents s.advance = laterEvents s := by
  cases hd : sequenceDone s with
  | true =>
    rw [laterEvents, laterIndices_of_done hx hd, advance_of_done hd]
    rfl
  | false =>
    rw [laterEvents, laterIndices_of_not_done hx hd, advance_of_not_done hd]
    rfl

/-- After `Advance()` the time still to wait for is that of the elementary steps that came later (R88, R91). -/
theorem remainingTime_advance (hx : IndexInRange s.dir s.idx s.limit) :
    remainingTime s.advance = (laterIndices s).length * s.dur.toNat := by
  cases hd : sequenceDone s with
  | true =>
    rw [laterIndices_of_done hx hd, advance_of_done hd]
    simp [remainingTime]
  | false =>
    rw [laterIndices_of_not_done hx hd, advance_of_not_done hd, List.length_cons, Nat.succ_mul, Nat.add_comm]
    rfl

end Sequence

/-! ### Each executing state moves its event from what remains to what is emitted (R85 to R89, R116) -/

section Conserved

variable {s : State}

theorem remainingEvents_cfgTransition (hs : s.st = .cfg) :
    .cfg (s.pinId.get s.sub) .ok :: remainingEvents (cfgTransition false s) = remainingEvents s := by
  rw [cfgTransition_ok]
  split
  case isTrue hk => simp [remainingEvents, hs, pinsFrom_of_lt hk]
  case isFalse hk => simp [remainingEvents, hs, pinsFrom_last hk]

theorem remainingEvents_patTransition (hs : s.st = .pat) :
    .wr (s.pinId.get s.sub) s.patternLevel .ok :: remainingEvents (patTransition false s) = remainingEvents s := by
  rw [patTransition_ok]
  split
  case isTrue hk => simp only [remainingEvents, hs, patternEvents, pinsFrom_of_lt hk]; rfl
  case isFalse hk => simp only [remainingEvents, hs, patternEvents, pinsFrom_last hk]; rfl

theorem remainingEvents_holdWaitTransition (hs : s.st = .holdWait) (tick : Bool) :
    remainingEvents (holdWaitTransition tick s) = remainingEvents s := by
  unfold holdWaitTransition
  split
  · simp only [remainingEvents, hs]; rfl
  · split
    · simp only [remainingEvents, hs]; rfl
    · rfl

theorem remainingEvents_offTransition (hs : s.st = .off) (hx : IndexInRange s.dir s.idx s.limit) :
    .wr (s.pinId.get s.sub) .low .ok :: remainingEvents (offTransition false s) = remainingEvents s := by
  rw [offTransition_ok]
  split
  case isTrue hk => simp only [remainingEvents, hs, lowEvents, pinsFrom_of_lt hk]; rfl
  case isFalse hk =>
    rw [remainingEvents_advance (by exact hx)]
    simp only [remainingEvents, hs, lowEvents, pinsFrom_last hk]
    rfl

/-! ### Only a running timer counts time (R89, R91) -/

theorem remainingTime_cfgTransition (hs : s.st = .cfg) : remainingTime (cfgTransition false s) = 0 := by
  rw [cfgTransition_ok]
  split <;> simp [remainingTime, hs]

theorem remainingTime_patTransition (hs : s.st = .pat) : remainingTime (patTransition false s) = remainingTime s := by
  rw [patTransition_ok]
  split <;> (simp only [remainingTime, hs]; rfl)

theorem remainingTime_offTransition (hs : s.st = .off) (hx : IndexInRange s.dir s.idx s.limit) :
    remainingTime (offTransition false s) = remainingTime s := by
  rw [offTransition_ok]
  split
  case isTrue => simp only [remainingTime, hs]; rfl
  case isFalse =>
    rw [remainingTime_advance (by exact hx)]
    simp only [remainingTime, hs]
    rfl

@[simp] theorem remainingTime_consume (s : State) : remainingTime s.consume = remainingTime s := rfl

theorem timeCounted_of_ne (hs : s.st ≠ .holdWait) : timeCounted s = 0 := by simp [timeCounted, hs]

theorem timeCounted_of_holdWait (hs : s.st = .holdWait) :
    timeCounted s = if s.tmr ≠ 0 ∧ s.inputs.tick = true then 1 else 0 := by simp [timeCounted, hs]

/-- A tick takes one time unit off where the timer runs, and nothing else does (R89). -/
theorem remainingTime_holdWaitTransition (hs : s.st = .holdWait) (tick : Bool) :
    remainingTime (holdWaitTransition tick s) + (if s.tmr ≠ 0 ∧ tick = true then 1 else 0) = remainingTime s := by
  unfold holdWaitTransition
  split
  case isTrue h0 => simp [remainingTime, hs, h0, laterIndices]
  case isFalse h0 =>
    split
    case isTrue ht =>
      have h1 : (s.tmr - 1).toNat + 1 = s.tmr.toNat := by bv_omega
      simp only [remainingTime, hs, h0, ht, ne_eq, not_false_eq_true, and_self, if_true, laterIndices]
      omega
    case isFalse ht => simp [ht]

end Conserved

/-! ### Which transitions end the command (R88, R116) -/

section Ends

variable {s : State}

theorem cfgTransition_ends (hs : s.st = .cfg) (hb : (cfgTransition false s).busy = false) :
    (cfgTransition false s).rspValid = true ∧ (cfgTransition false s).rspCode = .ok := by
  rw [cfgTransition_ok] at hb ⊢
  split at hb
  case isTrue => exact absurd (hb.symm.trans (State.busy_cfg hs)) Bool.false_ne_true
  case isFalse hk => simp [hk]

theorem patTransition_busy (hs : s.st = .pat) : (patTransition false s).busy = true := by
  rw [patTransition_ok]
  split
  · exact State.busy_pat hs
  · rfl

theorem holdStartTransition_busy (s : State) : (holdStartTransition false s).busy = true := rfl

theorem holdWaitTransition_busy (hs : s.st = .holdWait) (tick : Bool) : (holdWaitTransition tick s).busy = true := by
  unfold holdWaitTransition
  split
  · rfl
  · split <;> exact State.busy_holdWait hs

theorem advance_ends (hb : s.advance.busy = false) : s.advance.rspValid = true ∧ s.advance.rspCode = .ok := by
  obtain ⟨-, ha⟩ | ⟨-, ha⟩ := advance_cases s <;> rw [ha] at hb ⊢
  · exact ⟨rfl, rfl⟩
  · cases hb

theorem offTransition_ends (hs : s.st = .off) (hb : (offTransition false s).busy = false) :
    s.sub = 3 ∧ (offTransition false s).rspValid = true ∧ (offTransition false s).rspCode = .ok := by
  rw [offTransition_ok] at hb ⊢
  split at hb
  case isTrue => exact absurd (hb.symm.trans (State.busy_off hs)) Bool.false_ne_true
  case isFalse hk =>
    rw [if_neg hk]
    exact ⟨PinPos.eq_last hk, advance_ends hb⟩

end Ends

/-! ### Every step of a command in progress -/

section Steps

variable {s t : State}

/-- A step of a busy block that is answered `ok`, by the executing state. -/
theorem step_ok_cases (hb : s.busy = true) (hr : s.inputs.rstN = true) (he : s.inputs.ioErr = false)
    (h : step s = .next t) :
    (s.st = .cfg ∧ t = cfgTransition false s.consume)
    ∨ (s.st = .pat ∧ t = patTransition false s.consume)
    ∨ (s.st = .holdStart ∧ t = holdStartTransition false s.consume)
    ∨ (s.st = .holdWait ∧ t = holdWaitTransition s.inputs.tick s.consume)
    ∨ (s.st = .off ∧ t = offTransition false s.consume) := by
  have ht := step_of_busy hr hb h
  obtain hs | hs | hs | hs | hs := State.busy_cases hb <;> simpa [engineTransition, hs, he] using ht

/-- What a step emits and what then remains make up what remained before it. -/
theorem step_ok_remainingEvents (hi : Inv s) (hb : s.busy = true) (hr : s.inputs.rstN = true)
    (he : s.inputs.ioErr = false) (h : step s = .next t) :
    s.issuedOp.toList.map (eventOf · .ok) ++ remainingEvents t = remainingEvents s := by
  obtain ⟨hs, rfl⟩ | ⟨hs, rfl⟩ | ⟨hs, rfl⟩ | ⟨hs, rfl⟩ | ⟨hs, rfl⟩ := step_ok_cases hb hr he h <;>
    simp only [State.issuedOp, hs]
  · exact remainingEvents_cfgTransition (s := s.consume) hs
  · exact remainingEvents_patTransition (s := s.consume) hs
  · simp only [remainingEvents, hs]
    rfl
  · exact remainingEvents_holdWaitTransition (s := s.consume) hs s.inputs.tick
  · exact remainingEvents_offTransition (s := s.consume) hs (hi.indexInRange (by simp [State.inSequence, hs]))

/-- The emitted and the remaining events are one list through every step that is answered `ok`. -/
theorem step_ok_conserves (hi : Inv s) (hb : s.busy = true) (hr : s.inputs.rstN = true)
    (he : s.inputs.ioErr = false) (h : step s = .next t) :
    t.trace ++ remainingEvents t = s.trace ++ remainingEvents s := by
  rw [step_trace hr h, he, List.append_assoc, ← step_ok_remainingEvents hi hb hr he h]
  rfl

/-- A step that ends the command reports an error, or its response is OK and it was INIT's last operation or the
last LOW write of an elementary step (R88, R116, R136). -/
theorem step_ending_cases (hb : s.busy = true) (hr : s.inputs.rstN = true) (h : step s = .next t)
    (ht : t.busy = false) :
    (s.inputs.ioErr = true ∧ t.rspCode = .error .ioFailure)
    ∨ (t.rspValid = true ∧ t.rspCode = .ok ∧
        (s.st = .cfg ∨ s.st = .off ∧ s.sub = 3 ∧ t.pinLvl = s.pinLvl.set 3 .low)) := by
  obtain ⟨op, -, he, rfl⟩ | ⟨hs, -, rfl⟩ | ⟨hs, -, rfl⟩ | ⟨hs, -, rfl⟩ | ⟨hs, rfl⟩ | ⟨hs, -, rfl⟩ :=
    engineTransition_cases (s := s.consume) hb (step_of_busy hr hb h).symm
  · exact .inl ⟨he, rfl⟩
  · obtain ⟨hv, hc⟩ := cfgTransition_ends hs ht
    exact .inr ⟨hv, hc, .inl hs⟩
  · simp [patTransition_busy hs] at ht
  · simp [holdStartTransition_busy] at ht
  · simp [holdWaitTransition_busy hs] at ht
  · obtain ⟨hk, hv, hc⟩ := offTransition_ends hs ht
    exact .inr ⟨hv, hc, .inr ⟨hs, hk, by rw [offTransition_ok_pinLvl, hk]; rfl⟩⟩

end Steps

/-- Settles O27: each executing state moves the event of its operation from what remains to the trace. -/
theorem emittedAndRemainingEventsAreConserved : Obligations.EmittedAndRemainingEventsAreConserved :=
  fun _ _ => step_ok_conserves

/-- Settles O30: only `S_HOLD_WAIT` counts time; `Advance()` splits off the hold of the next elementary step. -/
theorem timeUnitsAreConserved : Obligations.TimeUnitsAreConserved := by
  intro s t hi hb hr he h
  obtain ⟨hs, rfl⟩ | ⟨hs, rfl⟩ | ⟨hs, rfl⟩ | ⟨hs, rfl⟩ | ⟨hs, rfl⟩ := step_ok_cases hb hr he h
  · rw [remainingTime_cfgTransition (s := s.consume) hs, timeCounted_of_ne (by simp [hs])]
    simp [remainingTime, hs]
  · rw [remainingTime_patTransition (s := s.consume) hs, timeCounted_of_ne (by simp [hs]), remainingTime_consume,
      Nat.add_zero]
  · rw [timeCounted_of_ne (by simp [hs])]
    simp only [remainingTime, hs]
    rfl
  · rw [timeCounted_of_holdWait hs]
    exact remainingTime_holdWaitTransition (s := s.consume) hs s.inputs.tick
  · rw [remainingTime_offTransition (s := s.consume) hs (hi.indexInRange (by simp [State.inSequence, hs])),
      timeCounted_of_ne (by simp [hs]), remainingTime_consume, Nat.add_zero]

/-- Settles O49: the response OK ends a sequence at its last LOW write, when the other three pins are LOW. -/
theorem pinsAreLowAfterSuccess : Obligations.PinsAreLowAfterSuccess := by
  intro s t hi hq hr h ht hc
  have hb : s.busy = true := by cases hs : s.st <;> simp [State.inSequence, State.busy, hs] at hq ⊢
  obtain ⟨-, he⟩ | ⟨-, -, hs | ⟨hs, hk, hl⟩⟩ := step_ending_cases hb hr h ht
  · simp [he] at hc
  · simp [State.inSequence, hs] at hq
  · rw [hl]
    exact Quad.ext_get fun k => (Quad.get_set_of_le (p := allLow.get) (fun j hj => by
      rw [hi.releasing hs j, hk, if_pos hj, get_allLow]) (Fin.le_last k))

/-- A ready block has nothing to emit. -/
theorem remainingEvents_of_ready {s : State} (hb : s.busy = false) : remainingEvents s = [] := by
  obtain hs | hs := State.ready_cases hb <;> simp [remainingEvents, hs]

/-- Settles O28, by induction on the run: each step conserves the events (O27), and the last one, which ends the
command, responds OK. -/
theorem quietCommandEmitsItsTrace : Obligations.QuietCommandEmitsItsTrace := by
  intro n
  induction n with
  | zero => exact fun _ _ _ _ _ _ _ h0 => absurd h0 (lt_irrefl 0)
  | succ n ih =>
    intro s t hi hq hrun ht hbusy _
    obtain ⟨hr, he⟩ : s.inputs.rstN = true ∧ s.inputs.ioErr = false := by
      simpa [inputsAt_zero] using hq 0 n.succ_pos
    have hb : s.busy = true := hbusy 0 n.succ_pos s rfl
    obtain ⟨u, hu⟩ := everyStepAnswersNext s
    rw [runFor_succ n hu] at hrun
    have hcons := step_ok_conserves hi hb hr he hu
    rcases n.eq_zero_or_pos with rfl | hn
    · cases hrun
      obtain ⟨he', -⟩ | ⟨hv, hc, -⟩ := step_ending_cases hb hr hu ht
      · simp [he] at he'
      · exact ⟨by simpa [remainingEvents_of_ready ht] using hcons, hv, hc⟩
    · rw [← hcons]
      refine ih u t (stepKeepsInvariant s u hi hu) (fun m hm => ?_) hrun ht (fun m hm v hv => ?_) hn
      · rw [inputsAt_succ hu]
        exact hq (m + 1) (Nat.succ_lt_succ hm)
      · exact hbusy (m + 1) (Nat.succ_lt_succ hm) v ((runFor_succ m hu).trans hv)

end Machine

end Sys2Proof

/-! ## The index streams and the trace of a whole sequence (R84, R90, R91, R93) -/

namespace Sys2Proof.Machine

@[simp] theorem length_indexStream (count : Int) : (indexStream count).length = count.natAbs := by
  unfold indexStream
  split <;> simp

theorem indexStream_of_pos {count : Int} (h : 0 < count) :
    indexStream count = (List.range count.natAbs).map fun j => count.natAbs - j := if_pos h

theorem indexStream_of_neg {count : Int} (h : count < 0) : indexStream count = List.range count.natAbs :=
  if_neg h.not_gt

theorem mem_indexStream_of_pos {count : Int} (h : 0 < count) {i : Nat} :
    i ∈ indexStream count ↔ 1 ≤ i ∧ i ≤ count.natAbs := by
  simp only [indexStream_of_pos h, List.mem_map, List.mem_range]
  constructor
  · rintro ⟨j, hj, rfl⟩
    omega
  · exact fun hi => ⟨count.natAbs - i, by omega, by omega⟩

/-- An index has the phase that is its residue modulo 8 (R84). -/
theorem phaseOfIndex_eq_iff (i : Nat) (p : Phase) : phaseOfIndex i = p ↔ i % 8 = p.val := by
  rw [Fin.ext_iff]
  rfl

/-- Phase 0 comes up among the indices 1 to `count` exactly when 8 does (R93). -/
theorem phase_zero_mem_iff {count : Int} (h : 0 < count) :
    0 ∈ (indexStream count).map phaseOfIndex ↔ 8 ≤ count := by
  simp only [List.mem_map, phaseOfIndex_eq_iff, mem_indexStream_of_pos h, Fin.val_zero]
  constructor
  · rintro ⟨i, ⟨h1, h2⟩, h0⟩
    omega
  · exact fun h8 => ⟨8, by omega, by omega⟩

/-- A positive stream ends on the index 1 (R93). -/
theorem getLast?_indexStream {count : Int} (h : 0 < count) : (indexStream count).getLast? = some 1 := by
  obtain ⟨n, hn⟩ : ∃ n, count.natAbs = n + 1 := ⟨count.natAbs - 1, by omega⟩
  simp [indexStream_of_pos h, hn, List.range_succ]

/-- A negative stream starts on the index 0 (R93). -/
theorem head?_indexStream {count : Int} (h : count < 0) : (indexStream count).head? = some 0 := by
  obtain ⟨n, hn⟩ : ∃ n, count.natAbs = n + 1 := ⟨count.natAbs - 1, by omega⟩
  simp [indexStream_of_neg h, hn, List.range_succ_eq_map]

/-- Settles O32: the streams as mapped ranges, their ends, and 8 as the first multiple of 8 from 1 up. -/
theorem indexStreams : Obligations.IndexStreams := fun count =>
  ⟨length_indexStream count, fun h j hj => by simp [indexStream_of_pos h, hj],
    fun h j hj => by simp [indexStream_of_neg h, hj],
    fun h => by simp [getLast?_indexStream h, phaseOfIndex_eq_iff],
    fun h => by simp [head?_indexStream h, phaseOfIndex_eq_iff], phase_zero_mem_iff⟩

/-! ### The nine events of an elementary step (R86, R91) -/

theorem length_stepEvents (s : State) (p : Phase) : (stepEvents s p).length = 9 := rfl

theorem length_filter_isWrite_stepEvents (s : State) (p : Phase) :
    ((stepEvents s p).filter isWrite).length = 8 := rfl

theorem filter_isHold_stepEvents (s : State) (p : Phase) : (stepEvents s p).filter isHold = [.hold s.dur .ok] := rfl

/-- Settles O31: each index of the stream contributes the eight writes and the hold of its elementary step. -/
theorem eightWritesAndOneHoldPerStep : Obligations.EightWritesAndOneHoldPerStep := by
  intro s count
  refine ⟨?_, ?_, ?_⟩
  · simp only [sequenceTrace, List.filter_flatMap, List.length_flatMap, length_filter_isWrite_stepEvents,
      List.map_const', List.sum_replicate, length_indexStream, smul_eq_mul, Nat.mul_comm]
  · simp only [sequenceTrace, List.filter_flatMap, filter_isHold_stepEvents]
    rw [← List.map_eq_flatMap, List.map_const', length_indexStream]
  · simp only [sequenceTrace, List.length_flatMap, length_stepEvents, List.map_const', List.sum_replicate,
      length_indexStream, smul_eq_mul, Nat.mul_comm]

/-! ### The start of a sequence (R82, R84) -/

/-- The stream of a nonzero count is the first index and the indices later than it. -/
theorem indexStream_eq_cons (s : State) {count : Int} (hf : fitsS32 count = true) (h0 : count ≠ 0) :
    indexStream count = (sequenceStarted s count).idx.toNat :: laterIndices (sequenceStarted s count) := by
  obtain ⟨n, hn⟩ : ∃ n, count.natAbs = n + 1 := ⟨count.natAbs - 1, by omega⟩
  rw [← startSequence_eq_sequenceStarted]
  obtain hc | hc := lt_or_gt_of_ne h0
  · rw [indexStream_of_neg hc, startSequence_neg s hc]
    simp only [laterIndices, toNat_ofNat_natAbs hf]
    simpa [hn] using range_map_add_succ 0 n
  · rw [indexStream_of_pos hc, startSequence_pos s hc]
    simp only [laterIndices, toNat_ofInt_of_pos hc hf]
    simpa [hn] using range_map_sub_succ n

/-- At the start of a sequence that runs, its first elementary step and the later ones remain (R82, R90). -/
theorem remainingEvents_sequenceStarted (s : State) {count : Int} (h0 : count ≠ 0) :
    remainingEvents (sequenceStarted s count) =
      ((sequenceStarted s count).idx.toNat :: laterIndices (sequenceStarted s count)).flatMap
        fun i => stepEvents s (phaseOfIndex i) := by
  simp only [sequenceStarted, h0, if_false]
  rfl

theorem remainingTime_sequenceStarted (s : State) {count : Int} (h0 : count ≠ 0) :
    remainingTime (sequenceStarted s count) =
      ((sequenceStarted s count).idx.toNat :: laterIndices (sequenceStarted s count)).length * s.dur.toNat := by
  rw [List.length_cons, Nat.succ_mul, Nat.add_comm]
  simp only [sequenceStarted, h0, if_false]
  rfl

/-- Settles O29: at its start a sequence is at the first index of its stream, with the others to come. -/
theorem sequenceStartsWithItsWholeTrace : Obligations.SequenceStartsWithItsWholeTrace := by
  intro s count hs hf
  by_cases h0 : count = 0
  · subst h0
    simp [sequenceStarted, remainingEvents, remainingTime, hs, sequenceTrace, indexStream]
  · rw [remainingEvents_sequenceStarted s h0, remainingTime_sequenceStarted s h0, ← indexStream_eq_cons s hf h0,
      length_indexStream]
    exact ⟨rfl, rfl⟩

end Sys2Proof.Machine

/-! ## Runs over an elementary step and over a whole sequence (R86, R88, R176) -/

namespace Sys2Proof.Machine

/-! ### Runs one after the other -/

/-- A run of `m` transitions and a run of `n` from where it ends are a run of `m + n`. -/
theorem runFor_add {m : Nat} (n : Nat) {s t : State} (h : runFor m s = .next t) : runFor (m + n) s = runFor n t := by
  induction m generalizing s with
  | zero => cases h; rw [Nat.zero_add]
  | succ m ih =>
    obtain ⟨u, hu⟩ := everyStepAnswersNext s
    rw [runFor_succ m hu] at h
    rw [Nat.add_right_comm, runFor_succ _ hu, ih h]

/-- The inputs that a state meets `k` transitions from now are, `n` transitions later, `n` nearer. -/
theorem inputsAt_runFor {n : Nat} {s t : State} (h : runFor n s = .next t) (k : Nat) :
    t.inputsAt k = s.inputsAt (n + k) := by
  induction n generalizing s with
  | zero => cases h; rw [Nat.zero_add]
  | succ n ih =>
    obtain ⟨u, hu⟩ := everyStepAnswersNext s
    rw [runFor_succ n hu] at h
    rw [ih h, inputsAt_succ hu, Nat.add_right_comm]

/-- No reset, no failing answer and a tick in each of the next `n` transitions. -/
structure Smooth (n : Nat) (s : State) : Prop where
  quiet : QuietFor s n
  ticks : TicksFor s n

section Smooth

variable {n : Nat} {s t : State}

theorem Smooth.inputs (h : Smooth (n + 1) s) :
    s.inputs.rstN = true ∧ s.inputs.ioErr = false ∧ s.inputs.tick = true := by
  rw [← inputsAt_zero]
  obtain ⟨hr, he⟩ := h.quiet 0 n.succ_pos
  exact ⟨hr, he, h.ticks 0 n.succ_pos⟩

theorem Smooth.mono {m : Nat} (h : Smooth n s) (hm : m ≤ n) : Smooth m s :=
  ⟨fun k hk => h.quiet k (hk.trans_le hm), fun k hk => h.ticks k (hk.trans_le hm)⟩

/-- After `m` of the transitions the others are still smooth. -/
theorem Smooth.after_run {m : Nat} (h : Smooth (m + n) s) (hrun : runFor m s = .next t) : Smooth n t := by
  constructor <;> intro k hk <;> rw [inputsAt_runFor hrun]
  · exact h.quiet (m + k) (Nat.add_lt_add_left hk m)
  · exact h.ticks (m + k) (Nat.add_lt_add_left hk m)

theorem Smooth.after_step (h : Smooth (n + 1) s) (hstep : step s = .next t) : Smooth n t :=
  Smooth.after_run (m := 1) (by rwa [Nat.add_comm]) (runFor_succ 0 hstep)

end Smooth

/-- The state with the inputs of `n` transitions used up and no response standing: `consume`, `n` times. -/
def State.elapse (n : Nat) (s : State) : State :=
  { s with rspValid := false, script := s.script.drop n, cycle := s.cycle + n }

/-- What the four pattern writes leave, from the first on (R85). -/
def State.afterPattern (s : State) : State :=
  { s.elapse 4 with
    trace := s.trace ++ patternEvents s (phaseOf s.idx) 0, pinLvl := s.pattern, sub := 3, st := .holdStart }

/-- What the hold leaves, from its issue to its end, with a tick in every transition (R89). -/
def State.afterHold (s : State) : State :=
  { s.elapse (s.dur.toNat + 2) with trace := s.trace ++ [.hold s.dur .ok], tmr := 0, sub := 0, st := .off }

/-- What the four LOW writes leave, before `Advance()` (R87). -/
def State.afterRelease (s : State) : State :=
  { s.elapse 4 with trace := s.trace ++ lowEvents s 0, pinLvl := allLow, sub := 3 }

/-- What the nine operations of an elementary step leave, before `Advance()` (R86). -/
def State.afterElementaryStep (s : State) : State :=
  { s.elapse (s.dur.toNat + 10) with
    trace := s.trace ++ stepEvents s (phaseOf s.idx), pinLvl := allLow, sub := 3, tmr := 0, st := .off }

/-! ### The pins that a row of writes leaves (R85, R87) -/

/-- The levels after a row of writes of `p`, in the order of the pins listed. -/
def writeRow (p : Quad Level) (pins : List PinPos) (q : Quad Level) : Quad Level :=
  pins.foldl (fun q k => q.set k (p.get k)) q

/-- A row of all four writes leaves its own levels, whatever stood on the pins. -/
theorem writeRow_all (p q : Quad Level) : writeRow p (pinsFrom 0) q = p := rfl

/-- The levels that the writes of this state put on the four pins: the pattern in `S_PAT` and LOW in `S_OFF`. -/
def State.row (s : State) : Quad Level := if s.st = .pat then s.pattern else allLow

/-- What the writes of a row leave, before the sequencer goes on from the fourth. -/
def State.rowWritten (pins : List PinPos) (s : State) : State :=
  { s.elapse pins.length with
    trace  := s.trace ++ pins.map fun k => .wr (s.pinId.get k) (s.row.get k) .ok
    pinLvl := writeRow s.row pins s.pinLvl
    sub    := 3 }

/-- Where the fourth write leads: to the hold from `S_PAT`, and on by `Advance()` from `S_OFF`. -/
def State.afterRow (s : State) : State := if s.st = .pat then { s with st := .holdStart } else s.advance

section Rows

variable {s : State}

theorem row_of_pat (hs : s.st = .pat) : s.row = s.pattern := if_pos hs

theorem row_of_off (hs : s.st = .off) : s.row = allLow := if_neg (by simp [hs])

/-- A row's write before the fourth pin, in either state. -/
theorem step_row_next (hs : s.st = .pat ∨ s.st = .off) (hr : s.inputs.rstN = true) (he : s.inputs.ioErr = false)
    (hk : s.sub.val < 3) : step s = .next { s.written (s.row.get s.sub) with sub := s.sub + 1 } := by
  obtain hs | hs := hs
  · rw [row_of_pat hs]
    exact step_pat_next hs hr he hk
  · rw [row_of_off hs, get_allLow]
    exact step_off_next hs hr he hk

theorem afterRow_of_pat (hs : s.st = .pat) : s.afterRow = { s with st := .holdStart } := if_pos hs

theorem afterRow_of_off (hs : s.st = .off) : s.afterRow = s.advance := if_neg (by simp [hs])

/-- A row's write at the fourth pin, in either state. -/
theorem step_row_last (hs : s.st = .pat ∨ s.st = .off) (hr : s.inputs.rstN = true) (he : s.inputs.ioErr = false)
    (hk : ¬ s.sub.val < 3) : step s = .next (s.written (s.row.get s.sub)).afterRow := by
  obtain hs | hs := hs
  · rw [row_of_pat hs, afterRow_of_pat (s := s.written _) hs]
    exact step_pat_last hs hr he hk
  · rw [row_of_off hs, get_allLow, afterRow_of_off (s := s.written _) hs]
    exact step_off_last hs hr he hk

theorem pinsFrom_ne_nil (k : PinPos) : pinsFrom k ≠ [] := by
  by_cases hk : k.val < 3
  · simp [pinsFrom_of_lt hk]
  · simp [pinsFrom_last hk]

/-- Writing one pin of a row, and then the others, is writing the row. -/
theorem rowWritten_written (pins : List PinPos) (k : PinPos) (s : State) :
    State.rowWritten pins { s.written (s.row.get s.sub) with sub := k } = s.rowWritten (s.sub :: pins) := by
  have hrow : State.row { s.written (s.row.get s.sub) with sub := k } = s.row := rfl
  rw [State.rowWritten, hrow]
  simp [State.rowWritten, State.written, State.elapse, writeRow, Nat.add_assoc, Nat.add_comm 1]

theorem rowWritten_last (hk : ¬ s.sub.val < 3) : s.rowWritten [s.sub] = s.written (s.row.get s.sub) := by
  simp only [State.rowWritten, ← PinPos.eq_last hk]
  simp [State.written, State.elapse, writeRow, State.consume]

/-- The writes from pin `SUB` on, by induction on the pins still to write (R85, R87). -/
theorem runFor_row {pins : List PinPos} (hp : pinsFrom s.sub = pins) (hs : s.st = .pat ∨ s.st = .off)
    (hq : Smooth pins.length s) : runFor pins.length s = .next (s.rowWritten pins).afterRow := by
  induction pins generalizing s with
  | nil => exact absurd hp (pinsFrom_ne_nil s.sub)
  | cons k pins ih =>
    obtain ⟨hr, he, -⟩ := hq.inputs
    by_cases hk : s.sub.val < 3
    · have h1 := step_row_next hs hr he hk
      obtain ⟨rfl, rfl⟩ := List.cons.inj ((pinsFrom_of_lt hk).symm.trans hp)
      rw [← rowWritten_written _ (s.sub + 1), List.length_cons, runFor_succ _ h1]
      exact ih rfl hs (hq.after_step h1)
    · obtain ⟨rfl, rfl⟩ := List.cons.inj ((pinsFrom_last hk).symm.trans hp)
      rw [rowWritten_last hk, List.length_singleton, runFor_succ 0 (step_row_last hs hr he hk), runFor_zero]

/-- The four pattern writes (R85). -/
theorem runFor_pat (hs : s.st = .pat) (h0 : s.sub = 0) (hq : Smooth 4 s) : runFor 4 s = .next s.afterPattern := by
  have h := runFor_row (pins := pinsFrom 0) (congrArg pinsFrom h0) (.inl hs) hq
  rw [afterRow_of_pat (s := s.rowWritten _) hs, State.rowWritten, row_of_pat hs, writeRow_all] at h
  exact h

/-- The four LOW writes, and then `Advance()` (R87, R88). -/
theorem runFor_off (hs : s.st = .off) (h0 : s.sub = 0) (hq : Smooth 4 s) :
    runFor 4 s = .next s.afterRelease.advance := by
  have h := runFor_row (pins := pinsFrom 0) (congrArg pinsFrom h0) (.inr hs) hq
  rw [afterRow_of_off (s := s.rowWritten _) hs, State.rowWritten, row_of_off hs, writeRow_all] at h
  exact h

end Rows

/-! ### The hold (R89) -/

/-- One transition for each tick, and one to end the hold. -/
theorem runFor_holdWait {n : Nat} {s : State} (hs : s.st = .holdWait) (ht : s.tmr.toNat = n) (hq : Smooth (n + 1) s) :
    runFor (n + 1) s = .next { s.elapse (n + 1) with tmr := 0, sub := 0, st := .off } := by
  obtain ⟨hr, -, htick⟩ := hq.inputs
  induction n generalizing s with
  | zero =>
    have h0 : s.tmr = 0 := by bv_omega
    rw [runFor_succ 0 (step_holdWait_end hs hr h0), runFor_zero]
    simp [State.elapse, State.consume, h0]
  | succ n ih =>
    have h0 : s.tmr ≠ 0 := by bv_omega
    have h1 := step_holdWait_tick hs hr h0 htick
    have hq' := hq.after_step h1
    obtain ⟨hr', -, htick'⟩ := hq'.inputs
    have ht' : (s.tmr - 1).toNat = n := by bv_omega
    refine (runFor_succ _ h1).trans (Eq.trans (ih hs ht' hq' hr' htick') ?_)
    simp [State.elapse, Nat.add_assoc, Nat.add_comm 1]

/-- The hold from its issue to its end. -/
theorem runFor_hold {s : State} (hs : s.st = .holdStart) (hq : Smooth (s.dur.toNat + 2) s) :
    runFor (s.dur.toNat + 2) s = .next s.afterHold := by
  obtain ⟨hr, he, -⟩ := hq.inputs
  have h1 := step_holdStart hs hr he
  refine (runFor_succ _ h1).trans (Eq.trans (runFor_holdWait rfl rfl (hq.after_step h1)) ?_)
  simp [State.elapse, State.afterHold, Nat.add_assoc, Nat.add_comm 1]

/-! ### The elementary step (R86) -/

/-- The three parts of an elementary step make up its nine events. -/
theorem afterElementaryStep_eq (s : State) : s.afterPattern.afterHold.afterRelease = s.afterElementaryStep := by
  have hn : s.dur.toNat + 10 = 4 + (s.dur.toNat + 2 + 4) := by omega
  simp only [State.afterPattern, State.afterHold, State.afterRelease, State.afterElementaryStep, State.elapse,
    stepEvents, hn, List.drop_drop, List.append_assoc, Nat.add_assoc]
  rfl

/-- An elementary step, from its first pattern write to `Advance()` (R86, R88). -/
theorem runFor_elementaryStep {s : State} (hs : s.st = .pat) (h0 : s.sub = 0) (hq : Smooth (s.dur.toNat + 10) s) :
    runFor (s.dur.toNat + 10) s = .next s.afterElementaryStep.advance := by
  have hn : s.dur.toNat + 10 = 4 + ((s.dur.toNat + 2) + 4) := by omega
  rw [hn] at hq ⊢
  have h1 := runFor_pat hs h0 (hq.mono (Nat.le_add_right 4 _))
  have hq1 := hq.after_run h1
  have h2 := runFor_hold (s := s.afterPattern) rfl (hq1.mono (Nat.le_add_right _ 4))
  have h3 := runFor_off (s := s.afterPattern.afterHold) rfl rfl (hq1.after_run h2)
  rw [runFor_add _ h1, ← afterElementaryStep_eq, ← h3]
  exact runFor_add 4 h2

/-- Settles O25: `Advance()` after the nine operations ends the sequence or begins the next elementary step. -/
theorem elementaryStepIssuesNineOperations : Obligations.ElementaryStepIssuesNineOperations := by
  intro s hs h0 hq ht
  refine ⟨_, runFor_elementaryStep hs h0 ⟨hq, ht⟩, ?_⟩
  obtain ⟨hd, ha⟩ | ⟨hd, ha⟩ := advance_cases s.afterElementaryStep <;> rw [ha]
  · have hend := (sequenceDone_iff s).mp hd
    exact ⟨rfl, rfl, rfl, .inl rfl, ⟨fun _ => hend, fun _ => rfl⟩, rfl, rfl, rfl, rfl, rfl, rfl, rfl, rfl, rfl⟩
  · have hgo := mt (sequenceDone_iff s).mpr (ne_true_of_eq_false hd)
    exact ⟨rfl, rfl, rfl, .inr ⟨rfl, rfl⟩, ⟨fun h => absurd h (by simp), fun h => absurd h hgo⟩, rfl, rfl, rfl, rfl,
      rfl, rfl, rfl, rfl, (List.append_nil _).symm⟩

/-! ### The whole sequence (R88, R90) -/

/-- The index at which a sequence ends (R88). -/
def State.lastIdx (s : State) : Word :=
  match s.dir with
  | .descending => 0
  | .ascending  => s.limit

/-- What the rest of a sequence leaves, `n` transitions later (R90, R92, R141). -/
def State.afterSequence (n : Nat) (s : State) : State :=
  { s.elapse n with
    trace := s.trace ++ remainingEvents s, pinLvl := allLow, idx := s.lastIdx, sub := 3, tmr := 0, st := .idle
    rspValid := true, rspCode := .ok, responses := s.responses ++ [.ok] }

section Sequence

variable {s : State}

theorem nextIdx_of_done (hd : sequenceDone s = true) : nextIdx s = s.lastIdx := by
  obtain ⟨h, hn⟩ | ⟨h, hn⟩ := (sequenceDone_iff s).mp hd <;> simp [State.lastIdx, h, hn]

theorem remainingEvents_of_pat_start (hs : s.st = .pat) (h0 : s.sub = 0) :
    remainingEvents s = stepEvents s (phaseOf s.idx) ++ laterEvents s := by
  simp only [remainingEvents, hs, h0, stepEvents]

/-- The last elementary step ends the sequence. -/
theorem advance_afterElementaryStep_of_done (hs : s.st = .pat) (h0 : s.sub = 0)
    (hx : IndexInRange s.dir s.idx s.limit) (hd : sequenceDone s = true) :
    s.afterElementaryStep.advance = s.afterSequence (s.dur.toNat + 10) := by
  rw [advance_of_done (s := s.afterElementaryStep) hd, State.afterSequence, remainingEvents_of_pat_start hs h0,
    laterEvents, laterIndices_of_done hx hd, ← nextIdx_of_done hd, List.flatMap_nil, List.append_nil]
  rfl

/-- Any other is followed by the rest of the sequence. -/
theorem afterSequence_advance (hs : s.st = .pat) (h0 : s.sub = 0)
    (hx : IndexInRange s.dir s.idx s.limit) (hd : sequenceDone s = false) (n : Nat) :
    s.afterElementaryStep.advance.afterSequence n = s.afterSequence (s.dur.toNat + 10 + n) := by
  have hev : remainingEvents s.afterElementaryStep.advance = laterEvents s :=
    remainingEvents_advance (s := s.afterElementaryStep) hx
  rw [State.afterSequence, State.afterSequence, hev, remainingEvents_of_pat_start hs h0,
    advance_of_not_done (s := s.afterElementaryStep) hd]
  simp only [State.afterElementaryStep, State.elapse, List.drop_drop, List.append_assoc, Nat.add_assoc]
  rfl

/-- A sequence from the first pattern write of an elementary step to its end, by induction on the indices later than
this one. -/
theorem runFor_sequence {m n : Nat} (hm : (laterIndices s).length = m) (hs : s.st = .pat) (h0 : s.sub = 0)
    (hx : IndexInRange s.dir s.idx s.limit) (hn : n = (m + 1) * (s.dur.toNat + 10)) (hq : Smooth n s) :
    runFor n s = .next (s.afterSequence n) := by
  induction m generalizing s n with
  | zero =>
    have hd : sequenceDone s = true := by
      by_contra hd
      rw [laterIndices_of_not_done hx (eq_false_of_ne_true hd)] at hm
      simp at hm
    obtain rfl : n = s.dur.toNat + 10 := by simpa using hn
    rw [runFor_elementaryStep hs h0 hq, advance_afterElementaryStep_of_done hs h0 hx hd]
  | succ m ih =>
    have hd : sequenceDone s = false := by
      by_contra hd
      rw [laterIndices_of_done hx (eq_true_of_ne_false hd)] at hm
      simp at hm
    have h1 := runFor_elementaryStep hs h0 (hq.mono (by rw [hn]; exact Nat.le_mul_of_pos_left _ (Nat.succ_pos _)))
    obtain rfl : n = s.dur.toNat + 10 + (m + 1) * (s.dur.toNat + 10) := by rw [hn, Nat.succ_mul, Nat.add_comm]
    rw [runFor_add _ h1, ← afterSequence_advance hs h0 hx hd]
    have hq1 := hq.after_run h1
    have hl : laterIndices s = _ := laterIndices_of_not_done (s := s.afterElementaryStep) hx hd
    rw [hl, List.length_cons, Nat.succ_inj] at hm
    rw [advance_of_not_done (s := s.afterElementaryStep) hd] at hm hq1 ⊢
    exact ih hm rfl rfl (indexInRange_nextIdx hx hd) rfl hq1

end Sequence

/-- Starting a sequence uses up no input. -/
theorem inputsAt_sequenceStarted (s : State) (count : Int) (k : Nat) :
    (sequenceStarted s count).inputsAt k = s.inputsAt k := by
  unfold sequenceStarted
  split <;> rfl

/-- A sequence that runs starts with its index in range, `-2^31` included (R82). -/
theorem indexInRange_sequenceStarted (s : State) {count : Int} (hf : fitsS32 count = true) (h0 : count ≠ 0) :
    IndexInRange (sequenceStarted s count).dir (sequenceStarted s count).idx (sequenceStarted s count).limit := by
  have hb : -2 ^ 31 ≤ count ∧ count ≤ 2 ^ 31 - 1 := by simpa [fitsS32] using hf
  rw [← startSequence_eq_sequenceStarted]
  obtain hc | hc := lt_or_gt_of_ne h0
  · rw [startSequence_neg s hc]
    simp only [IndexInRange, toNat_ofNat_natAbs hf, BitVec.ofNat_eq_ofNat, BitVec.toNat_zero]
    omega
  · rw [startSequence_pos s hc]
    simp only [IndexInRange, toNat_ofInt_of_pos hc hf]
    omega

/-- Settles O26: the sequence that STEP starts, with as many elementary steps to come as its stream has indices. -/
theorem stepRunsToCompletion : Obligations.StepRunsToCompletion := by
  intro s count n hs hf h0 hn hq ht
  have hstart : sequenceStarted s count = _ := if_neg h0
  obtain ⟨hev, -⟩ := sequenceStartsWithItsWholeTrace s count hs hf
  have hm : (laterIndices (sequenceStarted s count)).length + 1 = count.natAbs := by
    rw [← length_indexStream, indexStream_eq_cons s hf h0, List.length_cons]
  have hsmooth : Smooth n (sequenceStarted s count) := by
    constructor <;> intro k hk <;> rw [inputsAt_sequenceStarted]
    · exact hq k hk
    · exact ht k hk
  have hrun := runFor_sequence (n := n) rfl (by rw [hstart]) (by rw [hstart])
    (indexInRange_sequenceStarted s hf h0) (by rw [hm, hn, hstart]) hsmooth
  refine ⟨_, _, exec_step_eq (State.configured_idle hs) count, hrun, ?_⟩
  rw [State.afterSequence, hev, hstart]
  exact ⟨rfl, rfl, rfl, rfl, rfl, rfl, rfl, rfl, rfl, rfl, rfl, rfl⟩

end Sys2Proof.Machine

/-! ## The rotation commands (R100 to R108) -/

namespace Sys2Proof

/-- The signed 32-bit range as bounds (R6). -/
theorem fitsS32_iff {x : Int} : fitsS32 x = true ↔ -2 ^ 31 ≤ x ∧ x ≤ 2 ^ 31 - 1 := by
  simp [fitsS32]

/-- A multiplier that divides `2^31` turns the range check of the product into one of the operand (R105). -/
theorem fitsS32_mul_iff {n k lo hi : Int} (hk : 0 < k) (hlo : lo * k = -2 ^ 31) (hhi : (hi + 1) * k = 2 ^ 31) :
    fitsS32 (n * k) = true ↔ lo ≤ n ∧ n ≤ hi := by
  rw [fitsS32_iff, ← hlo, ← hhi, Int.le_sub_one_iff, mul_le_mul_iff_left₀ hk, mul_lt_mul_iff_left₀ hk,
    Int.lt_add_one_iff]

/-- A positive multiplier brings no number back into range: the product is at least as large (R104). -/
theorem fitsS32_of_mul {x k : Int} (hk : 0 < k) (h : fitsS32 (x * k) = true) : fitsS32 x = true := by
  rw [fitsS32_iff] at h ⊢
  obtain hx | hx := le_total 0 x
  · have : x ≤ x * k := le_mul_of_one_le_right hx hk
    omega
  · have : x * k ≤ x := mul_le_of_one_le_right hx hk
    omega

theorem fitsS32_mul_eq_false {x k : Int} (hk : 0 < k) (h : fitsS32 x = false) : fitsS32 (x * k) = false :=
  Bool.eq_false_iff.mpr fun hm => Bool.eq_false_iff.mp h (fitsS32_of_mul hk hm)

/-- A quotient toward zero by a divisor of at least 5760, R106's smaller one, is at most `2^31 / 5760` in
magnitude. -/
theorem natAbs_tdiv_le {angle b : Int} (hf : fitsS32 angle = true) (hb : 5760 ≤ b) :
    (Int.tdiv angle b).natAbs ≤ 372827 := by
  rw [fitsS32_iff] at hf
  calc (Int.tdiv angle b).natAbs = angle.natAbs / b.natAbs := Int.natAbs_tdiv angle b
    _ ≤ 2 ^ 31 / 5760 := Nat.div_le_div (by omega) (by omega) (by decide)
    _ = 372827 := by decide

theorem fitsS32_tdiv {angle b : Int} (hf : fitsS32 angle = true) (hb : 5760 ≤ b) :
    fitsS32 (Int.tdiv angle b) = true := by
  have := natAbs_tdiv_le hf hb
  rw [fitsS32_iff]
  omega

namespace Machine

/-- The steps per quarter turn, for both kinds of method at once (R100). -/
theorem quarterSteps_eq (c : Config) (m : Method) :
    quarterSteps c m = (if m = .halfStep then 2 else 1) * (c.fullResolutionQuarter : Int) := by
  cases m <;> simp [quarterSteps]

theorem quarterSteps_pos {c : Config} (h : c.fullResolutionQuarter ≠ 0) (m : Method) : 0 < quarterSteps c m := by
  cases m <;> simp only [quarterSteps] <;> omega

theorem stepsPerTurn_eq (c : Config) (m : Method) :
    stepsPerTurn c m = (if m = .halfStep then 8 else 4) * (c.fullResolutionQuarter : Int) := by
  rw [stepsPerTurn, quarterSteps_eq, ← mul_assoc]
  split <;> rfl

section Rotations

variable {s : State}

/-- An error found by an idle block leaves it idle (R140). -/
theorem raise_eq_errorReported (hs : s.st = .idle) (e : Error) : s.raise e = errorReported s e := by
  simp only [State.raise, State.respond, errorReported, hs, stateAfterError]

theorem rotate_eq_sequenceStarted (hc : s.configured = true) {count : Int} (hf : fitsS32 count = true) :
    s.rotate count = sequenceStarted s count := by
  rw [rotate_in_range hc hf, startSequence_eq_sequenceStarted]

theorem rotate_eq_errorReported (hs : s.st = .idle) {count : Int} (hf : fitsS32 count = false) :
    s.rotate count = errorReported s .rangeError := by
  rw [rotate_out_of_range (State.configured_idle hs) hf, raise_eq_errorReported hs]

/-- An idle block decides a rotation by the range of its count (R105). -/
theorem rotate_of_idle (hs : s.st = .idle) (count : Int) :
    s.rotate count = if fitsS32 count then sequenceStarted s count else errorReported s .rangeError := by
  split
  next hf => exact rotate_eq_sequenceStarted (State.configured_idle hs) hf
  next hf => exact rotate_eq_errorReported hs (Bool.eq_false_iff.mpr hf)

/-- A row of R105's table: with a multiplier that divides `2^31` the operand's bounds decide. -/
theorem rotate_mul_of_idle (hs : s.st = .idle) {n k lo hi : Int} (hk : 0 < k) (hlo : lo * k = -2 ^ 31)
    (hhi : (hi + 1) * k = 2 ^ 31) :
    s.rotate (n * k) = if lo ≤ n ∧ n ≤ hi then sequenceStarted s (n * k) else errorReported s .rangeError := by
  simp only [rotate_of_idle hs, fitsS32_mul_iff hk hlo hhi]

/-! What each command's count is, as one product (R101 to R103) or quotient (R106). -/

theorem exec_qrot (n : Int) {k : Int} (hk : quarterSteps s.config s.method = k) :
    exec (.qrot n) s = .next (s.rotate (n * k)) := by
  rw [← hk]
  rfl

theorem exec_hrot (n : Int) {k : Int} (hk : 2 * quarterSteps s.config s.method = k) :
    exec (.hrot n) s = .next (s.rotate (n * k)) := by
  rw [← hk, ← mul_assoc]
  rfl

theorem exec_frot (n : Int) {k : Int} (hk : 4 * quarterSteps s.config s.method = k) :
    exec (.frot n) s = .next (s.rotate (n * k)) := by
  rw [← hk, ← mul_assoc]
  rfl

theorem exec_arot (angle : Int) {spr : Int} (hspr : stepsPerTurn s.config s.method = spr) :
    exec (.arot angle) s = .next (s.rotate (Int.tdiv (angle * spr) 23592960)) := by
  rw [← hspr, ← truncdiv_eq_tdiv _ _ (by decide)]
  rfl

/-- A number of steps per turn that divides `360 * 65536` cancels, and the count is in range (R106). -/
theorem exec_arot_cancel (hc : s.configured = true) {angle spr b : Int} (hf : fitsS32 angle = true)
    (hspr : stepsPerTurn s.config s.method = spr) (hpos : 0 < spr) (hb : b * spr = 23592960) (hle : 5760 ≤ b) :
    exec (.arot angle) s = .next (sequenceStarted s (Int.tdiv angle b)) := by
  rw [exec_arot angle hspr, ← hb, Int.mul_tdiv_mul_of_pos_left _ _ hpos,
    rotate_eq_sequenceStarted hc (fitsS32_tdiv hf hle)]

end Rotations

/-- Settles O13: an idle block decides by the range of the product, and 512 and its multiples divide `2^31`. -/
theorem rotationsStartOrReportRange : Obligations.RotationsStartOrReportRange := by
  intro s n hs
  refine ⟨fun q hq => ?_, fun h512 hm => ?_, fun h512 hm => ?_⟩
  · have hq : quarterSteps s.config s.method = q := by rw [quarterSteps_eq, hq]
    rw [exec_qrot n hq, exec_hrot n (congrArg (2 * ·) hq), exec_frot n (congrArg (4 * ·) hq)]
    simp only [rotate_of_idle hs, and_self]
  · have hq : quarterSteps s.config s.method = 512 := by rw [quarterSteps_full hm, h512]; rfl
    rw [exec_qrot n hq, exec_hrot n (k := 1024) (by rw [hq]; rfl), exec_frot n (k := 2048) (by rw [hq]; rfl)]
    refine ⟨congrArg _ ?_, congrArg _ ?_, congrArg _ ?_⟩ <;>
      exact rotate_mul_of_idle hs (by decide) (by decide) (by decide)
  · have hq : quarterSteps s.config s.method = 1024 := by rw [hm, quarterSteps_half, h512]; rfl
    rw [exec_qrot n hq, exec_hrot n (k := 2048) (by rw [hq]; rfl), exec_frot n (k := 4096) (by rw [hq]; rfl)]
    refine ⟨congrArg _ ?_, congrArg _ ?_, congrArg _ ?_⟩ <;>
      exact rotate_mul_of_idle hs (by decide) (by decide) (by decide)

/-- Settles O14: the counts are equal as integers, and a nonzero multiplier keeps them out of range. -/
theorem rotationIdentities : Obligations.RotationIdentities := by
  intro s n
  have hrot : exec (.hrot n) s = .next (s.rotate (2 * n * quarterSteps s.config s.method)) := by
    rw [exec_hrot n rfl, mul_left_comm, mul_assoc]
  have frot : exec (.frot n) s = .next (s.rotate (4 * n * quarterSteps s.config s.method)) := by
    rw [exec_frot n rfl, mul_left_comm, mul_assoc]
  refine ⟨fun _ => ⟨?_, ?_⟩, fun _ => ?_, fun hs hQ h2 => ?_, fun hs hQ h4 => ?_⟩
  · rw [hrot, exec_qrot _ rfl]
  · have hcount (q : Int) : 4 * n * q = 2 * n * (2 * q) := by ring
    rw [frot, hcount, exec_hrot _ rfl]
  · rw [frot, exec_qrot _ rfl]
  · rw [hrot, rotate_eq_errorReported hs (fitsS32_mul_eq_false (quarterSteps_pos hQ s.method) h2)]
  · rw [frot, rotate_eq_errorReported hs (fitsS32_mul_eq_false (quarterSteps_pos hQ s.method) h4)]

/-- Settles O15: the count is a truncated quotient, and 2048 and 4096 steps per turn cancel from it. -/
theorem angleIsTruncatedTowardZero : Obligations.AngleIsTruncatedTowardZero := by
  intro s angle hc hf
  refine ⟨fun spr hspr => ?_, fun h512 hm => ?_, fun h512 hm => ?_,
    natAbs_tdiv_le hf (by decide), natAbs_tdiv_le hf (by decide)⟩
  · rw [exec_arot angle ((stepsPerTurn_eq _ _).trans hspr.symm)]
    exact ⟨fun h => by rw [rotate_eq_sequenceStarted hc h], fun h hs => by rw [rotate_eq_errorReported hs h]⟩
  · have hspr : stepsPerTurn s.config s.method = 2048 := by rw [stepsPerTurn_eq, if_neg hm, h512]; rfl
    exact exec_arot_cancel hc hf hspr (by decide) (by decide) (by decide)
  · have hspr : stepsPerTurn s.config s.method = 4096 := by rw [stepsPerTurn_eq, if_pos hm, h512]; rfl
    exact exec_arot_cancel hc hf hspr (by decide) (by decide) (by decide)

end Machine

end Sys2Proof

/-! ## The configuration commands (R115 to R124) -/

namespace Sys2Proof.Machine

/-! ### The setters (R120, R122, R124) -/

/-- Two responses, one after the other. -/
theorem respond_respond (s : State) (c c' : Completion) :
    (s.respond c).respond c' =
      { s with rspValid := true, rspCode := c', responses := s.responses ++ [c, c'] } := by
  simp [State.respond]

section Setters

variable {s : State}

/-- SETDUR on a constructed block (R120). -/
theorem exec_setdur (hc : s.configured = true) (d : Word) :
    exec (.setdur d) s = .next (State.respond { s with dur := d } .ok) := by
  simp [exec, execSetdur, hc]

/-- SETMETH on a constructed block (R122). -/
theorem exec_setmeth (hc : s.configured = true) (m : Method) :
    exec (.setmeth m) s = .next (State.respond { s with method := m } .ok) := by
  simp [exec, execSetmeth, hc]

end Setters

/-- Settles O16: a constructed block accepts both setters, and a response writes the response registers alone. -/
theorem settersWriteTheirRegister : Obligations.SettersWriteTheirRegister :=
  fun _ d m hc => ⟨exec_setdur hc d, exec_setmeth hc m⟩

/-- Settles O17: the block is still constructed after the first setter, so both are accepted, and a write of `DUR`
and one of `METHOD` do not meet. -/
theorem lastSetterWins : Obligations.LastSetterWins := by
  intro s u v u' v' d d' m m' hc
  have hcd : (State.respond { s with dur := d } .ok).configured = true := hc
  have hcm : (State.respond { s with method := m } .ok).configured = true := hc
  simp only [exec_setdur hc, exec_setmeth hc, Host.Outcome.next.injEq]
  refine ⟨?_, ?_, ?_⟩
  · rintro rfl hv
    cases (exec_setdur hcd d').symm.trans hv
    exact respond_respond { s with dur := d' } .ok .ok
  · rintro rfl hv
    cases (exec_setmeth hcm m').symm.trans hv
    exact respond_respond { s with method := m' } .ok .ok
  · rintro rfl hv rfl hv'
    cases (exec_setmeth hcd m).symm.trans hv
    cases (exec_setdur hcm d).symm.trans hv'
    rfl

/-! ### INIT at its acceptance (R115, R117) -/

section Acceptance

variable {s : State}

/-- The platform accepts an identifier that is not in its list of rejected ones (R117). -/
theorem pinValid_iff {c : Config} {id : PinId} : pinValid c id = true ↔ id ∉ c.rejectedPins := by
  simp [pinValid]

/-- R117's check: six inequalities, and each position's identifier is not a rejected one. -/
theorem pinsOk_iff {c : Config} {p : Quad PinId} :
    pinsOk c p = true ↔
      (p.a ≠ p.b ∧ p.a ≠ p.c ∧ p.a ≠ p.d ∧ p.b ≠ p.c ∧ p.b ≠ p.d ∧ p.c ≠ p.d)
      ∧ ∀ k : PinPos, p.get k ∉ c.rejectedPins := by
  simp [pinsOk, pinValid_iff, Fin.forall_fin_succ, Quad.get, and_assoc]

/-- An error found at acceptance leaves a ready block as it was, but for its flag and the response (R140). -/
theorem raise_of_ready (hb : s.busy = false) (e : Error) : s.raise e = errorReported s e := by
  obtain hs | hs := State.ready_cases hb
  · simp only [State.raise, State.respond, errorReported, hs, stateAfterError]
  · exact raise_eq_errorReported hs e

/-- INIT with identifiers that pass the check begins the construction (R115). -/
theorem exec_init_ok (hs : s.st = .unconf) {p : Quad PinId} (hp : pinsOk s.config p = true) (d : Word) (m : Method) :
    exec (.init p d m) s = .next { s with pinId := p, dur := d, method := m, sub := 0, st := .cfg } := by
  simp [exec, execInit, hs, hp]

/-- INIT with identifiers that do not pass is answered ConfigurationError (R117). -/
theorem exec_init_error (hs : s.st = .unconf) {p : Quad PinId} (hp : pinsOk s.config p = false) (d : Word)
    (m : Method) : exec (.init p d m) s = .next (errorReported s .configurationError) := by
  simp [exec, execInit, hs, hp, raise_of_ready (State.busy_unconf hs)]

end Acceptance

/-- Settles O9: no identifier is rejected by default, and an unconstructed block decides INIT by the check. -/
theorem pinCheckDecidesConstruction : Obligations.PinCheckDecidesConstruction := by
  refine ⟨fun id => pinValid_iff.mpr List.not_mem_nil, fun s p d m => ⟨pinsOk_iff, fun hs => ?_⟩⟩
  cases hp : pinsOk s.config p with
  | true => exact exec_init_ok hs hp d m
  | false => exact exec_init_error hs hp d m

/-! ### The transitions of INIT (R116, R118) -/

/-- What configuring the pin `SUB` leaves when it succeeds, before the sequencer goes on (R48). -/
def State.pinDriven (s : State) : State :=
  { s.consume with trace := s.trace ++ [.cfg (s.pinId.get s.sub) .ok], pinOe := s.pinOe.set s.sub true }

/-- The end of INIT (R116). -/
def State.constructed (s : State) : State := State.respond { s with st := .idle } .ok

section Configuring

variable {s : State}

theorem engineTransition_cfg (i : Inputs) (hs : s.st = .cfg) : engineTransition i s = cfgTransition i.ioErr s := by
  simp [engineTransition, hs]

/-- In `S_CFG`, before the fourth pin (R116). -/
theorem step_cfg_next (hs : s.st = .cfg) (hr : s.inputs.rstN = true) (he : s.inputs.ioErr = false)
    (hk : s.sub.val < 3) : step s = .next { s.pinDriven with sub := s.sub + 1 } := by
  rw [step_eq_engineTransition hr (State.busy_cfg hs), engineTransition_cfg (s := s.consume) _ hs, he,
    cfgTransition_ok, State.consume_sub, if_pos hk]
  rfl

/-- In `S_CFG`, at the fourth pin (R116). -/
theorem step_cfg_last (hs : s.st = .cfg) (hr : s.inputs.rstN = true) (he : s.inputs.ioErr = false)
    (hk : ¬ s.sub.val < 3) : step s = .next s.pinDriven.constructed := by
  rw [step_eq_engineTransition hr (State.busy_cfg hs), engineTransition_cfg (s := s.consume) _ hs, he,
    cfgTransition_last (s := s.consume) (PinPos.eq_last hk)]
  rfl

end Configuring

/-- Settles O23: an `ok` answer by the two branches of `S_CFG`, a failed one by error entry. -/
theorem configureTransition : Obligations.ConfigureTransition := by
  intro s hs hr
  refine ⟨fun he => ?_, step_eq_operationFailed (by simp only [State.issuedOp, hs]) hr⟩
  by_cases hk : s.sub.val < 3
  · have h3 : decide (s.sub = 3) = false := decide_eq_false fun h => by simp [h] at hk
    simp only [step_cfg_next hs hr he hk, hk, if_true, h3, ← hs]
    rfl
  · have h3 : decide (s.sub = 3) = true := decide_eq_true (PinPos.eq_last hk)
    simp only [step_cfg_last hs hr he hk, hk, if_false, h3]
    rfl

/-! ### The whole of INIT (R115, R116) -/

theorem QuietFor.inputs {n : Nat} {s : State} (h : QuietFor s (n + 1)) :
    s.inputs.rstN = true ∧ s.inputs.ioErr = false := by
  rw [← inputsAt_zero]
  exact h 0 n.succ_pos

/-- After a step the remaining transitions are still quiet. -/
theorem QuietFor.after_step {n : Nat} {s t : State} (h : QuietFor s (n + 1)) (hstep : step s = .next t) :
    QuietFor t n := by
  intro k hk
  rw [inputsAt_succ hstep]
  exact h (k + 1) (Nat.succ_lt_succ hk)

/-- Which pins drive after those listed are configured. -/
def driveRow (pins : List PinPos) (q : Quad Bool) : Quad Bool := pins.foldl (fun q k => q.set k true) q

theorem driveRow_all (q : Quad Bool) : driveRow (pinsFrom 0) q = allDriven := rfl

/-- What configuring the pins listed leaves, before INIT ends. -/
def State.pinsDriven (pins : List PinPos) (s : State) : State :=
  { s.elapse pins.length with
    trace := s.trace ++ pins.map fun k => .cfg (s.pinId.get k) .ok
    pinOe := driveRow pins s.pinOe
    sub   := 3 }

/-- Configuring one pin, and then the others, is configuring them all. -/
theorem pinsDriven_pinDriven (pins : List PinPos) (k : PinPos) (s : State) :
    State.pinsDriven pins { s.pinDriven with sub := k } = s.pinsDriven (s.sub :: pins) := by
  simp [State.pinsDriven, State.pinDriven, State.elapse, driveRow, Nat.add_assoc, Nat.add_comm 1]

section Construction

variable {s : State}

theorem pinsDriven_last (hk : ¬ s.sub.val < 3) : s.pinsDriven [s.sub] = s.pinDriven := by
  simp only [State.pinsDriven, ← PinPos.eq_last hk]
  simp [State.pinDriven, State.elapse, driveRow, State.consume]

/-- INIT from pin `SUB` on, by induction on the pins still to configure (R116). -/
theorem runFor_cfg {pins : List PinPos} (hp : pinsFrom s.sub = pins) (hs : s.st = .cfg)
    (hq : QuietFor s pins.length) : runFor pins.length s = .next (s.pinsDriven pins).constructed := by
  induction pins generalizing s with
  | nil => exact absurd hp (pinsFrom_ne_nil s.sub)
  | cons k pins ih =>
    obtain ⟨hr, he⟩ := hq.inputs
    by_cases hk : s.sub.val < 3
    · have h1 := step_cfg_next hs hr he hk
      obtain ⟨rfl, rfl⟩ := List.cons.inj ((pinsFrom_of_lt hk).symm.trans hp)
      rw [← pinsDriven_pinDriven _ (s.sub + 1), List.length_cons, runFor_succ _ h1]
      exact ih rfl hs (hq.after_step h1)
    · obtain ⟨rfl, rfl⟩ := List.cons.inj ((pinsFrom_last hk).symm.trans hp)
      rw [pinsDriven_last hk, List.length_singleton, runFor_succ 0 (step_cfg_last hs hr he hk), runFor_zero]

end Construction

/-- Settles O10: INIT's acceptance uses up no input, and from pin A on it configures all four pins. -/
theorem initConstructsTheDriver : Obligations.InitConstructsTheDriver := by
  intro s p d m hs hp hq
  refine ⟨_, exec_init_ok hs hp d m, ?_⟩
  have hrun := runFor_cfg (s := { s with pinId := p, dur := d, method := m, sub := 0, st := .cfg })
    (pins := pinsFrom 0) rfl rfl hq
  rw [State.pinsDriven, driveRow_all] at hrun
  exact hrun

end Sys2Proof.Machine

/-! ## Errors and completion (R131 to R146) -/

namespace Sys2Proof.Machine

/-! ### Error entry (R131, R133, R136, R140) -/

/-- Where an error leaves the sequencer, as R140's three cases. -/
theorem stateAfterError_eq (q : SeqState) :
    stateAfterError q =
      if q = .cfg then .unconf
      else if q = .pat ∨ q = .holdStart ∨ q = .holdWait ∨ q = .off then .idle
      else q := by
  cases q <;> rfl

/-- Settles O19: the flags by the rule of `errSet`, the sequencer by R140's three cases, and the response by the
definition of error entry. -/
theorem errorEntryIsComplete : Obligations.ErrorEntryIsComplete := by
  intro s e
  refine ⟨fun e' => by rw [State.raise_err, errGet_errSet, decide_eq_decide.mpr eq_comm], ?_⟩
  rw [← stateAfterError_eq]
  rfl

/-- Settles O7: a ready block keeps its state of the sequencer when the word's error is reported. -/
theorem illegalWordCompletesWithItsError : Obligations.IllegalWordCompletesWithItsError := by
  intro s hr hb hv ⟨e, hd⟩
  rw [step_eq_raise hr hb hv hd, raise_of_ready (s := s.consume) hb]
  rfl

/-- Once the block is constructed INIT is refused before its operands are looked at (R133, R139). -/
theorem exec_init_of_constructed {s : State} (hs : s.st ≠ .unconf) (p : Quad PinId) (d : Word) (m : Method) :
    exec (.init p d m) s = .next (s.raise .notPermitted) := by
  simp [exec, execInit, hs]

/-- Settles O18: each command is refused in the lifecycle state that does not allow it, and a ready block's
refusal changes its flag and the response alone. -/
theorem lifecycleRefusesCommands : Obligations.LifecycleRefusesCommands := by
  intro s p d m n
  refine ⟨fun hs => ?_, fun hs i hi => ?_⟩
  · rw [exec_init_of_constructed (by simp [hs]), raise_of_ready (State.busy_idle hs)]
  · have hne : ∀ p d m, i ≠ .init p d m := by
      rintro p d m rfl
      simp at hi
    rw [exec_of_unconfigured (State.configured_unconf hs) hne, raise_of_ready (State.busy_unconf hs)]

/-- Settles O24: the step of a failed operation does not depend on which operation it is. -/
theorem failedOperationEndsTheCommand : Obligations.FailedOperationEndsTheCommand :=
  fun _ _ hr hop he => step_eq_operationFailed hop hr he

/-! ### The use of each input (R146) -/

section InputUse

variable {s : State}

/-- The sequencer's own transition looks at `tick` in `S_HOLD_WAIT` alone, and at `io_err` only where an operation
is issued. -/
theorem engineTransition_congr_of_used {i j : Inputs} (ht : s.st = .holdWait → i.tick = j.tick)
    (he : s.issuedOp.isSome = true → i.ioErr = j.ioErr) : engineTransition i s = engineTransition j s := by
  rw [issuedOp_isSome_iff] at he
  unfold engineTransition
  cases hs : s.st with
  | unconf => rfl
  | cfg => simp only [he (by simp [hs])]
  | idle => rfl
  | pat => simp only [he (by simp [hs])]
  | holdStart => simp only [he (by simp [hs])]
  | holdWait => simp only [ht hs]
  | off => simp only [he (by simp [hs])]

/-- A step of a ready block outside reset looks at the command port alone. -/
theorem step_congr_of_ready {s' : State} (hb : s.busy = false) (hc : s'.consume = s.consume)
    (hr : s.inputs.rstN = true) (hr' : s'.inputs.rstN = true) (hv : s'.inputs.cmdValid = s.inputs.cmdValid)
    (hw : s'.inputs.cmdWord = s.inputs.cmdWord) : step s' = step s := by
  have hb' : s'.busy = false := (congrArg State.busy hc).trans hb
  cases h : s.inputs.cmdValid with
  | false => rw [step_eq_consume hr hb h, step_eq_consume hr' hb' (hv.trans h), hc]
  | true =>
    cases hd : decode s.inputs.cmdWord with
    | error e => rw [step_eq_raise hr hb h hd, step_eq_raise hr' hb' (hv.trans h) (hw ▸ hd), hc]
    | ok i => rw [step_eq_exec hr hb h hd, step_eq_exec hr' hb' (hv.trans h) (hw ▸ hd), hc]

/-- Two states that differ in their inputs alone make the same step when the inputs used there are the same. -/
theorem step_congr_of_used {s' : State} (hc : s'.consume = s.consume) (hr : s'.inputs.rstN = s.inputs.rstN)
    (hcmd : s.busy = false → s'.inputs.cmdValid = s.inputs.cmdValid ∧ s'.inputs.cmdWord = s.inputs.cmdWord)
    (ht : s.st = .holdWait → s'.inputs.tick = s.inputs.tick)
    (he : s.issuedOp.isSome = true → s'.inputs.ioErr = s.inputs.ioErr) : step s' = step s := by
  cases h : s.inputs.rstN with
  | false => rw [step_eq_applyReset h, step_eq_applyReset (hr.trans h), hc]
  | true =>
    have h' := hr.trans h
    cases hb : s.busy with
    | true =>
      have hb' : s'.busy = true := (congrArg State.busy hc).trans hb
      rw [step_eq_engineTransition h hb, step_eq_engineTransition h' hb', hc,
        engineTransition_congr_of_used (s := s.consume) ht he]
    | false =>
      obtain ⟨hv, hw⟩ := hcmd hb
      exact step_congr_of_ready hb hc h h' hv hw

end InputUse

/-- Settles O41: only the inputs of the two states differ, and those that count there agree. -/
theorem inputsCountOnlyWhereTheyAreUsed : Obligations.InputsCountOnlyWhereTheyAreUsed :=
  fun s _ j rest hr hcmd ht he => step_congr_of_used (s := { s with script := j :: rest }) rfl hr hcmd ht he

/-! ### One response for each command (R141) -/

section Responding

variable {s : State}

/-- An error entry leaves the block ready (R140). -/
@[simp] theorem busy_raise (s : State) (e : Error) : (s.raise e).busy = false := by
  cases hs : s.st <;> simp [State.busy, stateAfterError, hs]

/-- A step sequence makes the block busy, or responds at once (R82, R83). -/
theorem startSequence_busy (hr : s.rspValid = false) (hb : s.busy = false) (count : Int) :
    (s.startSequence count).busy = !(s.startSequence count).rspValid := by
  obtain hc | rfl | hc := lt_trichotomy count 0
  · rw [startSequence_neg s hc]; simp [hr, State.busy]
  · exact hb
  · rw [startSequence_pos s hc]; simp [hr, State.busy]

/-- `Advance()` responds, or goes on with the sequence (R88). -/
theorem advance_busy (hr : s.rspValid = false) : s.advance.busy = !s.advance.rspValid := by
  obtain ⟨-, h⟩ | ⟨-, h⟩ := advance_cases s <;> rw [h]
  · rfl
  · simp [hr, State.busy]

/-- A busy block responds with the transition that ends its command, and no sooner. -/
theorem engineTransition_busy (hr : s.rspValid = false) (hb : s.busy = true) (i : Inputs) :
    (engineTransition i s).busy = !(engineTransition i s).rspValid := by
  obtain ⟨op, -, -, ht⟩ | ⟨hs, -, ht⟩ | ⟨hs, -, ht⟩ | ⟨-, -, ht⟩ | ⟨hs, ht⟩ | ⟨hs, -, ht⟩ :=
    engineTransition_cases hb (t := engineTransition i s) rfl <;> rw [ht]
  · simp
  · rw [cfgTransition_ok]
    split
    · simp [hr, State.busy_cfg, hs]
    · rfl
  · rw [patTransition_busy hs, patTransition_ok]
    split <;> simp [hr]
  · rw [holdStartTransition_busy, holdStartTransition_ok]
    simp [hr]
  · rw [holdWaitTransition_busy hs, (holdWaitTransition_answers hr i.tick).1]
    rfl
  · rw [offTransition_ok]
    split
    · simp [hr, State.busy_off, hs]
    · exact advance_busy hr

/-- An accepted command responds at once or makes the block busy. -/
theorem exec_busy (hr : s.rspValid = false) (hb : s.busy = false) {i : Instr} {t : State}
    (hw : i.wellFormed = true) (h : exec i s = .next t) : t.busy = !t.rspValid := by
  obtain ⟨e, rfl, -⟩ | ⟨p, d, m, -, -, -, rfl⟩ | ⟨d, -, -, rfl⟩ | ⟨m, -, -, rfl⟩ | ⟨count, -, -, rfl⟩ :=
    exec_cases hw h
  · simp
  · simp [hr, State.busy]
  · exact hb
  · exact hb
  · exact startSequence_busy hr hb count

/-- Outside reset a step leaves the block busy with its command or with the command's response given, unless the
block was ready and presented nothing. -/
theorem step_busy_cases {t : State} (hr : s.inputs.rstN = true) (h : step s = .next t) :
    (s.busy = false ∧ s.inputs.cmdValid = false ∧ t.busy = false ∧ t.rspValid = false)
    ∨ ((s.busy = true ∨ s.inputs.cmdValid = true) ∧ t.busy = !t.rspValid) := by
  obtain ⟨hr', -⟩ | ⟨-, hb, rfl⟩ | ⟨-, hb, hv, rfl⟩ | ⟨-, -, hv, -, rfl⟩ | ⟨-, hb, hv, i, hd, he⟩ := step_cases h
  · simp [hr] at hr'
  · exact .inr ⟨.inl hb, engineTransition_busy (s := s.consume) rfl hb s.inputs⟩
  · exact .inl ⟨hb, hv, hb, rfl⟩
  · exact .inr ⟨.inr hv, by simp⟩
  · exact .inr ⟨.inr hv, exec_busy (s := s.consume) rfl hb (decode_wellFormed hd) he⟩

/-- The responses grow by the response given, if one is. -/
theorem responses_of_answers {t : State} {r : Option Completion} (h : Answers s t r) :
    t.responses = s.responses ++ if t.rspValid then [t.rspCode] else [] := by
  cases r with
  | none =>
    obtain ⟨hv, hs, -⟩ := h
    simp [hv, hs]
  | some c =>
    obtain ⟨hv, hc, hs, -⟩ := h
    simp [hv, hc, hs]

end Responding

/-- Settles O46: the responses follow what the step answers, and `busy` is 0 exactly with the response, or where
nothing was presented to a ready block. -/
theorem oneResponseForEachCommand : Obligations.OneResponseForEachCommand := by
  intro s t hr h
  obtain ⟨r, ha⟩ := step_answers hr h
  refine ⟨responses_of_answers ha, ?_⟩
  obtain ⟨hb, hv, htb, htv⟩ | ⟨hcmd, htb⟩ := step_busy_cases hr h
  · simp [hb, hv, htb, htv]
  · refine ⟨fun hv => ?_, fun _ _ => htb, fun hb hv => ?_, fun _ => htb⟩
    · have hready : t.busy = false := by simp [htb, hv]
      exact ⟨hready, issuedOp_of_ready hready⟩
    · simp [hb, hv] at hcmd

end Sys2Proof.Machine

/-! ## Tick starvation (R168) -/

namespace Sys2Proof.Machine

/-- Settles O33, by induction on the run: a transition without a tick only uses up its inputs. -/
theorem tickStarvationHoldsTheBlock : Obligations.TickStarvationHoldsTheBlock := by
  intro n
  induction n with
  | zero => exact fun s hs _ _ => ⟨s, rfl, hs, State.busy_holdWait hs, rfl, rfl, rfl, rfl⟩
  | succ n ih =>
    intro s hs h0 hq
    obtain ⟨hr, ht⟩ := inputsAt_zero s ▸ hq 0 n.succ_pos
    have h1 := step_holdWait_idle hs hr h0 ht
    rw [runFor_succ n h1]
    refine ih s.consume hs h0 fun m hm => ?_
    rw [inputsAt_succ h1]
    exact hq (m + 1) (Nat.succ_lt_succ hm)

end Sys2Proof.Machine

/-! ## Partial patterns (R172) -/

namespace Sys2Proof.Machine

section Within

variable {s t : State}

theorem withinPattern_of_allLow (h : s.pinLvl = allLow) : WithinPattern s := by
  intro _ k hk
  rw [h, get_allLow] at hk
  cases hk

/-- Outside a sequence there is no pattern to stay within. -/
theorem withinPattern_of_not_inSequence (h : s.inSequence = false) : WithinPattern s :=
  fun hq => absurd hq (by simp [h])

/-- A write stays within the pattern `p` where the level written does. -/
theorem high_within_set {q p : Quad Level} {k : PinPos} {v : Level}
    (h : ∀ j, q.get j = .high → p.get j = .high) (hv : v = .high → p.get k = .high) (j : PinPos)
    (hj : (q.set k v).get j = .high) : p.get j = .high := by
  rw [Quad.get_set] at hj
  split at hj
  case isTrue he => exact he ▸ hv hj
  case isFalse => exact h j hj

/-- An error ends the sequence (R140). -/
theorem inSequence_raise (s : State) (e : Error) : (s.raise e).inSequence = false := by
  cases hs : s.st <;> simp [State.inSequence, stateAfterError, hs]

/-- INIT's transitions belong to no sequence (R116). -/
theorem inSequence_cfgTransition (hs : s.st = .cfg) : (cfgTransition false s).inSequence = false := by
  rw [cfgTransition_ok]
  split
  · simp [State.inSequence, hs]
  · rfl

/-- The fourth LOW write leaves all pins LOW (R87). -/
theorem Inv.pinLvl_released (h : Inv s) (hs : s.st = .off) (hk : ¬ s.sub.val < 3) :
    s.pinLvl.set s.sub .low = allLow := by
  have hlow : ∀ j, j < s.sub → s.pinLvl.get j = allLow.get j := fun j hj => by
    rw [h.releasing hs j, if_pos hj, get_allLow]
  refine Quad.ext_get fun j => ?_
  rw [← get_allLow s.sub]
  exact Quad.get_set_of_le hlow (PinPos.le_last hk j)

/-- A pattern write puts the pattern's own level on its pin (R85). -/
theorem WithinPattern.patTransition (h : WithinPattern s) (hs : s.st = .pat) :
    WithinPattern (patTransition false s) := by
  have hw := high_within_set (k := s.sub) (v := s.patternLevel) (h (by simp [State.inSequence, hs])) id
  rw [patTransition_ok]
  split <;> exact fun _ => hw

/-- The hold writes no pin and moves no index (R89). -/
theorem WithinPattern.holdWaitTransition (h : WithinPattern s) (hs : s.st = .holdWait) (tick : Bool) :
    WithinPattern (holdWaitTransition tick s) := by
  have hw := h (by simp [State.inSequence, hs])
  unfold Machine.holdWaitTransition
  split
  · exact fun _ => hw
  · split <;> exact fun _ => hw

/-- A LOW write takes no pin out of the pattern, and when the index moves on all pins are LOW (R87, R88). -/
theorem WithinPattern.offTransition (h : WithinPattern s) (hi : Inv s) (hs : s.st = .off) :
    WithinPattern (offTransition false s) := by
  by_cases hk : s.sub.val < 3
  · have hw := high_within_set (k := s.sub) (v := .low) (h (by simp [State.inSequence, hs])) nofun
    rw [offTransition_ok, if_pos hk]
    exact fun _ => hw
  · exact withinPattern_of_allLow ((offTransition_ok_pinLvl s).trans (hi.pinLvl_released hs hk))

/-- The sequencer's own transition stays within the pattern, whatever the inputs. -/
theorem WithinPattern.engineTransition (h : WithinPattern s) (hi : Inv s) (hb : s.busy = true) (i : Inputs) :
    WithinPattern (engineTransition i s) := by
  obtain ⟨op, -, -, ht⟩ | ⟨hs, -, ht⟩ | ⟨hs, -, ht⟩ | ⟨hs, -, ht⟩ | ⟨hs, ht⟩ | ⟨hs, -, ht⟩ :=
    engineTransition_cases hb (t := Machine.engineTransition i s) rfl <;> rw [ht]
  · exact withinPattern_of_not_inSequence (inSequence_raise _ _)
  · exact withinPattern_of_not_inSequence (inSequence_cfgTransition hs)
  · exact h.patTransition hs
  · exact fun _ => h (by simp [State.inSequence, hs])
  · exact h.holdWaitTransition hs i.tick
  · exact h.offTransition hi hs

end Within

/-- Settles O50: the sequencer's own transition stays within the pattern, and with all pins LOW nothing can leave
it. -/
theorem partialPatternsStayWithinThePattern : Obligations.PartialPatternsStayWithinThePattern := by
  refine ⟨fun s t hi hb hw h => ?_, fun s count hl => withinPattern_of_allLow ?_⟩
  · cases hr : s.inputs.rstN with
    | false =>
      obtain rfl : s.consume.applyReset = t := by simpa [step_eq_applyReset hr] using h
      exact withinPattern_of_not_inSequence rfl
    | true =>
      rw [step_of_busy hr hb h]
      exact WithinPattern.engineTransition (s := s.consume) hw hi.consume hb s.inputs
  · rw [← startSequence_eq_sequenceStarted, startSequence_pinLvl, hl]

end Sys2Proof.Machine

/-! ## The end of a command and of a run (R160, R161, R178) -/

namespace Sys2Proof.Machine

section Runs

variable {s t u : State}

theorem runFor_next (n : Nat) (s : State) : ∃ t, runFor n s = .next t := by
  induction n generalizing s with
  | zero => exact ⟨s, rfl⟩
  | succ n ih =>
    obtain ⟨u, hu⟩ := everyStepAnswersNext s
    rw [runFor_succ n hu]
    exact ih u

/-- A run of `n + 1` transitions is a run of `n` and a last step. -/
theorem exists_last_step {n : Nat} (h : runFor (n + 1) s = .next t) :
    ∃ u, runFor n s = .next u ∧ step u = .next t := by
  obtain ⟨u, hu⟩ := runFor_next n s
  obtain ⟨v, hv⟩ := everyStepAnswersNext u
  rw [runFor_add 1 hu, runFor_succ 0 hv] at h
  cases h
  exact ⟨u, hu, hv⟩

theorem inputs_of_runFor {n : Nat} (h : runFor n s = .next t) : t.inputs = s.inputsAt n := by
  rw [← inputsAt_zero, inputsAt_runFor h, Nat.add_zero]

theorem accepting_iff (s : State) :
    s.accepting = true ↔ s.inputs.rstN = true ∧ s.busy = false ∧ s.inputs.cmdValid = true := by
  simp [State.accepting, State.cmdReady, and_assoc]

theorem acceptedWords_succ (n : Nat) (h : step s = .next t) :
    acceptedWords (n + 1) s = (if s.accepting then [s.inputs.cmdWord] else []) ++ acceptedWords n t := by
  simp only [acceptedWords, h]

/-! ### What a run answers (R19, R141) -/

/-- The books of a run from `s` to `t` that accepts `words` and gives the responses `given`: each command has its
response but the one in progress, and the flags are those of before and the errors given. -/
structure Accounts (words : List CommandWord) (given : List Completion) (s t : State) : Prop where
  responses : t.responses = s.responses ++ given
  counted : given.length + t.busy.toNat = words.length + s.busy.toNat
  flagged : ∀ e, errGet t.err e = true ↔ errGet s.err e = true ∨ .error e ∈ given

theorem Accounts.refl (s : State) : Accounts [] [] s s where
  responses := by simp
  counted := rfl
  flagged := by simp

theorem Accounts.trans {ws ws' : List CommandWord} {gs gs' : List Completion} (h : Accounts ws gs s t)
    (h' : Accounts ws' gs' t u) : Accounts (ws ++ ws') (gs ++ gs') s u where
  responses := by rw [h'.responses, h.responses, List.append_assoc]
  counted := by
    have h1 := h.counted
    have h2 := h'.counted
    simp only [List.length_append]
    omega
  flagged e := by rw [h'.flagged, h.flagged, List.mem_append, or_assoc]

/-- Outside reset a step's response, if it gives one, is the only entry. -/
theorem step_accounts (hr : s.inputs.rstN = true) (h : step s = .next t) :
    Accounts (if s.accepting then [s.inputs.cmdWord] else []) (if t.rspValid then [t.rspCode] else []) s t where
  responses := (oneResponseForEachCommand s t hr h).1
  counted := by
    obtain ⟨hb, hv, htb, htv⟩ | ⟨hcmd, htb⟩ := step_busy_cases hr h
    · simp [State.accepting, hb, hv, htb, htv]
    · cases hb : s.busy with
      | true => cases hv : t.rspValid <;> simp [State.accepting, State.cmdReady, hb, htb, hv]
      | false =>
        have ha : s.accepting = true := (accepting_iff s).mpr ⟨hr, hb, by simpa [hb] using hcmd⟩
        cases hv : t.rspValid <;> simp [ha, htb, hv]
  flagged e := by
    rw [(errorFlagsAreSticky s t h).1 hr e]
    cases t.rspValid <;> simp [eq_comm (a := Completion.error e)]

/-- The books of a run without reset, by induction on its transitions. -/
theorem runFor_accounts {n : Nat} (hr : ∀ m, m < n → (s.inputsAt m).rstN = true) (h : runFor n s = .next t) :
    ∃ given, Accounts (acceptedWords n s) given s t := by
  induction n generalizing s with
  | zero => cases h; exact ⟨[], .refl _⟩
  | succ n ih =>
    obtain ⟨u, hu⟩ := everyStepAnswersNext s
    rw [runFor_succ n hu] at h
    have hr0 : s.inputs.rstN = true := inputsAt_zero s ▸ hr 0 n.succ_pos
    obtain ⟨given, hg⟩ := ih (fun m hm => inputsAt_succ hu m ▸ hr (m + 1) (Nat.succ_lt_succ hm)) h
    rw [acceptedWords_succ n hu]
    exact ⟨_, (step_accounts hr0 hu).trans hg⟩

theorem errClear_iff (f : ErrFlags) : errClear f = true ↔ ∀ e, errGet f e = false := by
  simp only [errClear, Bool.and_eq_true, Bool.not_eq_true']
  refine ⟨fun h e => ?_, fun h => ?_⟩
  · cases e <;> simp [errGet, h]
  · exact ⟨⟨⟨⟨h .illegalCommand, h .notPermitted⟩, h .configurationError⟩, h .rangeError⟩, h .ioFailure⟩

/-- Every completion is OK exactly when none is an error (R130). -/
theorem all_ok_iff (cs : List Completion) : (∀ c ∈ cs, c = .ok) ↔ ∀ e, .error e ∉ cs := by
  refine ⟨fun h e he => Completion.noConfusion (h _ he), fun h c hc => ?_⟩
  cases c with
  | ok => rfl
  | error e => exact absurd hc (h e)

/-! ### A command that reset abandons (R161) -/

/-- A step into a busy state is outside reset and gives no response. -/
theorem step_to_busy (h : step s = .next t) (hb : t.busy = true) :
    s.inputs.rstN = true ∧ t.rspValid = false ∧ t.responses = s.responses := by
  have hr : s.inputs.rstN = true := by
    by_contra hr
    rw [step_eq_applyReset (eq_false_of_ne_true hr)] at h
    cases h
    cases hb
  obtain ⟨hres, hv, -⟩ := oneResponseForEachCommand s t hr h
  have hv : t.rspValid = false := eq_false_of_ne_true fun hv' => by simp [(hv hv').1] at hb
  exact ⟨hr, hv, by simpa [hv] using hres⟩

/-- While the block is busy with the command nothing responds. -/
theorem runFor_to_busy {m : Nat} (hb : ∀ j, 0 < j → j ≤ m → ∃ w, runFor j s = .next w ∧ w.busy = true)
    (h : runFor m s = .next t) : t.responses = s.responses ∧ (0 < m → t.rspValid = false) := by
  induction m generalizing t with
  | zero => cases h; exact ⟨rfl, fun h0 => absurd h0 (lt_irrefl 0)⟩
  | succ m ih =>
    obtain ⟨u, hu, hstep⟩ := exists_last_step h
    obtain ⟨w, hw, hbusy⟩ := hb (m + 1) m.succ_pos le_rfl
    obtain rfl : t = w := by simpa [h] using hw
    obtain ⟨-, hv, hres⟩ := step_to_busy hstep hbusy
    exact ⟨hres.trans (ih (fun j h0 hj => hb j h0 (hj.trans m.le_succ)) hu).1, fun _ => hv⟩

/-- Nothing has been done since `v`: the block is unconstructed, no response stands or has been given, and nothing
has been emitted. -/
def Untouched (v t : State) : Prop :=
  t.st = .unconf ∧ t.rspValid = false ∧ t.responses = v.responses ∧ t.trace = v.trace

/-- An unconstructed block that accepts nothing does nothing, in reset or out of it. -/
theorem step_untouched (hs : s.st = .unconf) (ha : s.accepting = false) (h : step s = .next t) : Untouched s t := by
  cases hr : s.inputs.rstN with
  | false =>
    rw [step_eq_applyReset hr] at h
    cases h
    exact ⟨rfl, rfl, rfl, rfl⟩
  | true =>
    have hb := State.busy_unconf hs
    rw [step_eq_consume hr hb (by simpa [State.accepting, State.cmdReady, hr, hb] using ha)] at h
    cases h
    exact ⟨hs, rfl, rfl, rfl⟩

theorem runFor_untouched {k : Nat} (hs : s.st = .unconf) (hv : s.rspValid = false) (ha : acceptedWords k s = [])
    (h : runFor k s = .next t) : Untouched s t := by
  induction k generalizing s with
  | zero => cases h; exact ⟨hs, hv, rfl, rfl⟩
  | succ k ih =>
    obtain ⟨u, hu⟩ := everyStepAnswersNext s
    rw [runFor_succ k hu] at h
    rw [acceptedWords_succ k hu] at ha
    obtain ⟨hnow, hlater⟩ := List.append_eq_nil_iff.mp ha
    obtain ⟨hus, huv, hures, hutr⟩ := step_untouched hs (by simpa using hnow) hu
    obtain ⟨hts, htv, htres, httr⟩ := ih hus huv hlater h
    exact ⟨hts, htv, htres.trans hures, httr.trans hutr⟩

end Runs

/-- The state a run of R178 begins in is ready and has no flag set (R26). -/
theorem RunEnded.begins {words : List CommandWord} {n : Nat} {s t : State} (h : RunEnded words n s t) :
    s.busy = false ∧ s.err = State.reset.err := by
  have hb := congrArg State.busy h.fromReset
  have he := congrArg State.err h.fromReset
  rw [live_busy, live_busy] at hb
  rw [live_err, live_err] at he
  exact ⟨hb, he⟩

/-- Settles O53: the books of the run balance, so with every command answered none is in progress; the flags began
clear, so they are the errors given. -/
theorem runEndLeavesNothingRunning : Obligations.RunEndLeavesNothingRunning := by
  intro words n s t h
  obtain ⟨hb, he⟩ := h.begins
  obtain ⟨given, hres, hcount, hflag⟩ := runFor_accounts (fun m hm => h.unreset m hm.le) h.reached
  have hlen : given.length = words.length := by simpa [hres] using h.answered
  have htb : t.busy = false := by simpa [h.accepted, hlen, hb] using hcount
  have hop := issuedOp_of_ready htb
  have hr : t.inputs.rstN = true := inputs_of_runFor h.reached ▸ h.unreset n le_rfl
  have hflag : ∀ e, errGet t.err e = true ↔ .error e ∈ given := fun e => by
    have h0 : errGet s.err e = false := by rw [he]; cases e <;> rfl
    simpa [h0] using hflag e
  refine ⟨htb, State.ready_cases htb, hop, by rw [outputs_io_of_issuedOp hr hop]; rfl, given, hres, hlen, hflag, ?_⟩
  calc RunEndedCleanly words n s t
      ↔ errClear t.err = true := ⟨fun hc => hc.clean, fun hc => ⟨h, hc⟩⟩
    _ ↔ ∀ e, .error e ∉ given := by simp only [errClear_iff, ← hflag, Bool.not_eq_true]
    _ ↔ ∀ c ∈ given, c = .ok := (all_ok_iff given).symm

/-- Settles O54: nothing responds while the block is busy, nor after the reset until a word is accepted; and a
response after the reset is not the command's, as `CommandEnded` asks for no reset before it. -/
theorem abandonedCommandNeverEnds : Obligations.AbandonedCommandNeverEnds := by
  intro m s u v _ _ hbusy hu hreset hv
  rw [step_eq_applyReset hreset] at hv
  cases hv
  constructor
  · intro k t ha ht
    obtain ⟨hts, htv, htres, httr⟩ := runFor_untouched (s := u.consume.applyReset) rfl rfl ha ht
    have htb := State.busy_unconf hts
    exact ⟨htres.trans (runFor_to_busy hbusy hu).1, htv, hts, htb, issuedOp_of_ready htb, httr⟩
  · rintro n ⟨-, k, w, hk, -, hrun, hw, hwv⟩
    obtain hkm | hkm := le_or_gt k m
    · have hquiet := (runFor_to_busy (fun j h0 hj => hbusy j h0 (hj.trans hkm)) hw).2 hk
      simp [hquiet] at hwv
    · have hr := hrun m hkm
      rw [← inputs_of_runFor hu, hreset] at hr
      cases hr

end Sys2Proof.Machine
